-- ==== Sys2Proof/Word.lean ====
section
/-! DEFINITION. The widths of 00_scope.md R6: a byte (addresses, offsets and data are all one byte), the 32-bit command
word of R90, and the three bytes of a frame (R53, R96-R98). -/

namespace Sys2Proof

/-- Every data value is an unsigned 8-bit byte unless its width is stated (R7). -/
abbrev Byte := BitVec 8

/-- One command word, written whole to the command port (R90). -/
abbrev CmdWord := BitVec 32

/-- One request frame as a 24-bit pattern, byte 0 most significant (R96, R97, and the numbering of the opcode table). -/
abbrev FrameWord := BitVec 24

/-- The three bytes of a request or a response, `b0` first on the bus (R53, R150). -/
structure Bytes3 where
  b0 : Byte
  b1 : Byte
  b2 : Byte
  deriving DecidableEq, Repr

end Sys2Proof
end

