-- ==== Sys2Proof/Config.lean ====
section
/-! DEFINITION. What an instance of the block fixes (00_scope.md R6): the constants, the types of its parameters, and the
two OPEN parameters that no rule reads. The parameters with more than one legal value are gathered in `Params`; the values
they have by default are in Machine/RegisterMap.lean and `State.reset`. -/

namespace Sys2Proof

/-- The two halves of a chip's 16 pins: A for pins 0-7, B for pins 8-15 (00_scope.md glossary, "Bank"). -/
inductive Half where
  | A
  | B
  deriving DecidableEq, Repr

/-- The register names of 40_register_map.md R121. IOCON is one name with two offsets (R122, C2). -/
inductive RegName where
  | iodirA | iodirB
  | ipolA | ipolB
  | gpintenA | gpintenB
  | defvalA | defvalB
  | intconA | intconB
  | iocon
  | gppuA | gppuB
  | intfA | intfB
  | intcapA | intcapB
  | gpioA | gpioB
  | olatA | olatB
  deriving DecidableEq, Repr

/-- The parameter REGMAP: one offset for each row of R121, IOCON's second offset (R122) among them. -/
structure RegMap where
  iodirA : Byte
  iodirB : Byte
  ipolA : Byte
  ipolB : Byte
  gpintenA : Byte
  gpintenB : Byte
  defvalA : Byte
  defvalB : Byte
  intconA : Byte
  intconB : Byte
  iocon : Byte
  iocon2 : Byte
  gppuA : Byte
  gppuB : Byte
  intfA : Byte
  intfB : Byte
  intcapA : Byte
  intcapB : Byte
  gpioA : Byte
  gpioB : Byte
  olatA : Byte
  olatB : Byte
  deriving DecidableEq, Repr

/-- The named fields of the I/O-config byte (R125); bit 0 has no name. -/
inductive IoconField where
  | bank
  | mirror
  | seqop
  | disslw
  | haen
  | odr
  | intpol
  deriving DecidableEq, Repr

/-- U9: which device-select values a reference device with IOCON.HAEN = 0 answers. `onlyZero` is R71's reading. -/
inductive HaenZeroReading where
  | onlyZero
  | everySelect
  deriving DecidableEq, Repr

/-- The parameters of an instance that have more than one legal value (R6, R38, U9). They are no registers: no step changes
them. T_SETTLE is held less one unit, so that it is positive (R6). -/
structure Params where
  regMap : RegMap
  verifyReadback : Bool
  settleLessOne : Nat
  haenZero : HaenZeroReading
  deriving DecidableEq, Repr

/-- T_SETTLE, positive (R6), in whatever unit of time the inputs count in (N5: the source names none). -/
def Params.tSettle (p : Params) : Nat := p.settleLessOne + 1

/-- DUMMY, the third request byte of a read (R6, R97, D29). -/
def Config.dummy : Byte := 0xDB#8

/-- IOCON_CFG, the I/O-config byte that host programs write to every chip (R6, R126). -/
def Config.ioconCfg : Byte := 0x0C#8

/-- BANK_LIST, the platform's chip addresses in order (R6, R52). -/
def Config.bankList : List Byte := [0x40#8, 0x42#8, 0x44#8, 0x48#8, 0x4A#8, 0x4C#8]

/-- FRAME_LEN, the bytes of a frame (R6). -/
def Config.frameLen : Nat := 3

/-- NPINS, the pins of a chip (R6). -/
def Config.nPins : Nat := 16

/-- The register, by its offset with BANK = 0, that offset `r` of a frame names in a device whose BANK is 1. R124 says only that the
registers stand at other offsets there, so this is a FREE VALUE: no body, and nothing can prove a value of it (DESIGN CHOICE, entry
26). -/
opaque Config.bankedRegister (r : Byte) : Byte

/-- SPI_MODE (R6, D9): OPEN, one fixed value of 0 to 3 for all frames. No frame-level rule depends on it. -/
opaque Config.spiMode : Fin 4

/-- F_SCLK in Hz (R6, D28): OPEN and informative. No rule depends on it. -/
opaque Config.sclkHz : Nat

end Sys2Proof
end

