-- ==== Sys2Proof/Syntax.lean ====
section
/-! DEFINITION. The rows of spec/opcode_table.json, one constructor each: the three host commands (30_encoding.md R92) and
the two request frames the block emits (R96, R97). -/

namespace Sys2Proof

inductive Instr where
  /-- REG_WRITE: write `val` to register `reg` of chip `addr` (R173). -/
  | regWrite (addr reg val : Byte)
  /-- REG_READ: read register `reg` of chip `addr` (R174). -/
  | regRead (addr reg : Byte)
  /-- SET_OUTPUT: set pin `pin` of chip `addr` on (`d = true`) or off, guarded (R175). -/
  | setOutput (addr pin : Byte) (d : Bool)
  /-- WRITE_FRAME: one write request on the bus (R96, R151), sent by the frame procedure (R156). -/
  | writeFrame (addr reg val : Byte)
  /-- READ_FRAME: one read request on the bus (R97, R152), sent by the frame procedure (R156). -/
  | readFrame (addr reg : Byte)
  deriving DecidableEq, Repr

/-- The chip address an instruction carries. -/
def Instr.addr : Instr → Byte
  | .regWrite a _ _ => a
  | .regRead a _ => a
  | .setOutput a _ _ => a
  | .writeFrame a _ _ => a
  | .readFrame a _ => a

end Sys2Proof
end

