-- ==== Sys2Proof/WellFormed.lean ====
section
/-! DEFINITION. The one check on an instruction's operands: the chip address is a stored address, whose bit 0, the
read/write selector, is 0 (20_memory.md R51, 30_encoding.md R94). Every other operand may have any value: offsets and data
(R91, D7), and pins up to 255 (R94: PIN > 15 is a legal word). -/

namespace Sys2Proof

/-- Bit 0 of the instruction's chip address is 0. -/
def Instr.wellFormed (i : Instr) : Bool := !i.addr.getLsbD 0

end Sys2Proof
end

