-- ==== Sys2Proof/Decode.lean ====
section
/-! DEFINITION. The decoder and the encoder of 30_encoding.md: the 32-bit command words (R90-R95) and the 24-bit request
frames (R96, R97). -/

namespace Sys2Proof

/-- An encoded instruction: a command word or a request frame. -/
inductive Encoded where
  | cmd32 (w : CmdWord)
  | frame24 (f : FrameWord)
  deriving DecidableEq, Repr

/-- Why a pattern is no row of the table: the cases of R93 for command words, and a request that is neither R96 nor R97. -/
inductive DecodeError where
  /-- OP = 0b11. -/
  | reservedOp
  /-- RSV, bits 29:24, is not 0. -/
  | reservedBits
  /-- ADDR[0], bit 16, is 1. -/
  | oddAddress
  /-- OP = REG_READ with bits 7:0 not 0. -/
  | readLowByte
  /-- OP = SET_OUTPUT with bits 7:1 not 0. -/
  | setOutputLowBits
  /-- A frame with the read/write bit 1 whose third byte is not DUMMY (R99: the block emits none). -/
  | notARequest
  deriving DecidableEq, Repr

/-- word[23:16] (R91). -/
def CmdWord.addrField (w : CmdWord) : Byte := w.extractLsb' 16 8

/-- word[15:8], REG or PIN (R91). -/
def CmdWord.regField (w : CmdWord) : Byte := w.extractLsb' 8 8

/-- word[7:0] (R91). -/
def CmdWord.valField (w : CmdWord) : Byte := w.extractLsb' 0 8

/-- The first case of R93 that an illegal word meets. -/
def whyIllegal (w : CmdWord) : DecodeError :=
  if w.extractLsb' 30 2 = 3#2 then .reservedOp
  else if w.extractLsb' 24 6 ≠ 0#6 then .reservedBits
  else if w.getLsbD 16 then .oddAddress
  else if w.extractLsb' 30 2 = 1#2 then .readLowByte
  else .setOutputLowBits

/-- Decode(word) of R95, by the masks and matches of R92; `Illegal` (R93) carries its reason. -/
def decodeCommand (w : CmdWord) : Except DecodeError Instr :=
  if w &&& 0xFF010000#32 = 0x00000000#32 then .ok (.regWrite w.addrField w.regField w.valField)
  else if w &&& 0xFF0100FF#32 = 0x40000000#32 then .ok (.regRead w.addrField w.regField)
  else if w &&& 0xFF0100FE#32 = 0x80000000#32 then .ok (.setOutput w.addrField w.regField (w.getLsbD 0))
  else .error (whyIllegal w)

/-- A request frame read back by the masks and matches of R96 and R97; the address is the stored one, bit 0 cleared. -/
def decodeFrame (f : FrameWord) : Except DecodeError Instr :=
  if f &&& 0x010000#24 = 0x000000#24 then
    .ok (.writeFrame (f.extractLsb' 16 8 &&& 0xFE#8) (f.extractLsb' 8 8) (f.extractLsb' 0 8))
  else if f &&& 0x0100FF#24 = 0x0100DB#24 then
    .ok (.readFrame (f.extractLsb' 16 8 &&& 0xFE#8) (f.extractLsb' 8 8))
  else .error .notARequest

/-- The decoder over both formats. -/
def decode : Encoded → Except DecodeError Instr
  | .cmd32 w => decodeCommand w
  | .frame24 f => decodeFrame f

/-- The three bytes of a 24-bit request pattern, byte 0 most significant (R96, R97). -/
def FrameWord.bytes (f : FrameWord) : Bytes3 :=
  ⟨f.extractLsb' 16 8, f.extractLsb' 8 8, f.extractLsb' 0 8⟩

/-- The 24-bit pattern of three bytes, byte 0 most significant. -/
def Bytes3.word (b : Bytes3) : FrameWord :=
  b.b0.setWidth 24 <<< 16 ||| b.b1.setWidth 24 <<< 8 ||| b.b2.setWidth 24

/-- A command word from bits 31:24 and the three operand bytes (R90, R91). -/
def commandWord (top addr mid low : Byte) : CmdWord :=
  top.setWidth 32 <<< 24 ||| addr.setWidth 32 <<< 16 ||| mid.setWidth 32 <<< 8 ||| low.setWidth 32

/-- Decoding for the host's question: `nbits` tells the table's two formats apart, and the table numbers the bits of both
as one number, byte 0 of a frame in bits 23:16. -/
def decodeTableWord (nbits w : Nat) : Option Instr :=
  if nbits = 32 then (decodeCommand (BitVec.ofNat 32 w)).toOption
  else if nbits = 24 then (decodeFrame (BitVec.ofNat 24 w)).toOption
  else none

/-- The encodings of R92, R96 and R97. -/
def encode : Instr → Encoded
  | .regWrite a r v => .cmd32 (commandWord 0x00#8 a r v)
  | .regRead a r => .cmd32 (commandWord 0x40#8 a r 0x00#8)
  | .setOutput a p d => .cmd32 (commandWord 0x80#8 a p (if d then 0x01#8 else 0x00#8))
  | .writeFrame a r v => .frame24 (Bytes3.word ⟨a &&& 0xFE#8, r, v⟩)
  | .readFrame a r => .frame24 (Bytes3.word ⟨a ||| 0x01#8, r, Config.dummy⟩)

/-- A row of spec/opcode_table.json, mask and match over the table's number. -/
structure TableRow where
  mnemonic : String
  nbits : Nat
  mask : BitVec 32
  pattern : BitVec 32
  deriving DecidableEq, Repr

/-- The rows for command words (R92). -/
def commandRows : List TableRow :=
  [⟨"REG_WRITE", 32, 0xFF010000#32, 0x00000000#32⟩,
   ⟨"REG_READ", 32, 0xFF0100FF#32, 0x40000000#32⟩,
   ⟨"SET_OUTPUT", 32, 0xFF0100FE#32, 0x80000000#32⟩]

/-- The rows for request frames (R96, R97). -/
def frameRows : List TableRow :=
  [⟨"WRITE_FRAME", 24, 0x00010000#32, 0x00000000#32⟩,
   ⟨"READ_FRAME", 24, 0x000100FF#32, 0x000100DB#32⟩]

/-- A word selects a row iff `(word & mask) = match` (R92). -/
def TableRow.selects (r : TableRow) (w : BitVec 32) : Bool := w &&& r.mask == r.pattern

/-- The row that stands for an instruction. -/
def Instr.row : Instr → TableRow
  | .regWrite _ _ _ => ⟨"REG_WRITE", 32, 0xFF010000#32, 0x00000000#32⟩
  | .regRead _ _ => ⟨"REG_READ", 32, 0xFF0100FF#32, 0x40000000#32⟩
  | .setOutput _ _ _ => ⟨"SET_OUTPUT", 32, 0xFF0100FE#32, 0x80000000#32⟩
  | .writeFrame _ _ _ => ⟨"WRITE_FRAME", 24, 0x00010000#32, 0x00000000#32⟩
  | .readFrame _ _ => ⟨"READ_FRAME", 24, 0x000100FF#32, 0x000100DB#32⟩

/-- The table's number of an encoded instruction, a frame's 24 bits with zeros above. -/
def Encoded.tableWord : Encoded → BitVec 32
  | .cmd32 w => w
  | .frame24 f => f.setWidth 32

end Sys2Proof
end

