-- ==== Sys2Proof/Machine/RegisterMap.lean ====
section
/-! DEFINITION. Family 1 of the source, the register map (40_register_map.md): the constant table of R121 and the pure
accessors R127-R132. None sends a frame, none has state, none fails (R120). -/

namespace Sys2Proof.Machine

/-- REGMAP's default, the offsets of R121: an MCP23S17-class device with IOCON.BANK = 0 (D8). -/
def regMapDefault : RegMap where
  iodirA := 0x00#8
  iodirB := 0x01#8
  ipolA := 0x02#8
  ipolB := 0x03#8
  gpintenA := 0x04#8
  gpintenB := 0x05#8
  defvalA := 0x06#8
  defvalB := 0x07#8
  intconA := 0x08#8
  intconB := 0x09#8
  iocon := 0x0A#8
  iocon2 := 0x0B#8
  gppuA := 0x0C#8
  gppuB := 0x0D#8
  intfA := 0x0E#8
  intfB := 0x0F#8
  intcapA := 0x10#8
  intcapB := 0x11#8
  gpioA := 0x12#8
  gpioB := 0x13#8
  olatA := 0x14#8
  olatB := 0x15#8

/-- The default parameters: REGMAP of R121, VERIFY_READBACK true (D16), R71's reading of U9. T_SETTLE is OPEN; one unit of
the inputs' time is the model's own choice, after the source's "≈1 time unit" (DESIGN CHOICE, entry 5; unsafe). -/
def paramsDefault : Params where
  regMap := regMapDefault
  verifyReadback := true
  settleLessOne := 0
  haenZero := .onlyZero

/-- The offset a register name stands for (R121, R100); IOCON is its first offset (R103). -/
def regOffset (m : RegMap) : RegName → Byte
  | .iodirA => m.iodirA
  | .iodirB => m.iodirB
  | .ipolA => m.ipolA
  | .ipolB => m.ipolB
  | .gpintenA => m.gpintenA
  | .gpintenB => m.gpintenB
  | .defvalA => m.defvalA
  | .defvalB => m.defvalB
  | .intconA => m.intconA
  | .intconB => m.intconB
  | .iocon => m.iocon
  | .gppuA => m.gppuA
  | .gppuB => m.gppuB
  | .intfA => m.intfA
  | .intfB => m.intfB
  | .intcapA => m.intcapA
  | .intcapB => m.intcapB
  | .gpioA => m.gpioA
  | .gpioB => m.gpioB
  | .olatA => m.olatA
  | .olatB => m.olatB

/-- The register kinds the source names (R121). -/
inductive RegKind where
  | direction
  | polarity
  | interruptEnable
  | interruptDefault
  | interruptControl
  | ioConfig
  | pullUp
  | interruptFlag
  | interruptCapture
  | port
  | outputLatch
  deriving DecidableEq, Repr

/-- The "Device access" column of R121. -/
inductive RegAccess where
  | readWrite
  | readOnly
  | readPins
  deriving DecidableEq, Repr

/-- The "Source kind" column of R121. -/
def regKind : RegName → RegKind
  | .iodirA => .direction
  | .iodirB => .direction
  | .ipolA => .polarity
  | .ipolB => .polarity
  | .gpintenA => .interruptEnable
  | .gpintenB => .interruptEnable
  | .defvalA => .interruptDefault
  | .defvalB => .interruptDefault
  | .intconA => .interruptControl
  | .intconB => .interruptControl
  | .iocon => .ioConfig
  | .gppuA => .pullUp
  | .gppuB => .pullUp
  | .intfA => .interruptFlag
  | .intfB => .interruptFlag
  | .intcapA => .interruptCapture
  | .intcapB => .interruptCapture
  | .gpioA => .port
  | .gpioB => .port
  | .olatA => .outputLatch
  | .olatB => .outputLatch

/-- The "Half" column of R121; IOCON is chip-wide. -/
def regHalf : RegName → Option Half
  | .iodirA => some .A
  | .iodirB => some .B
  | .ipolA => some .A
  | .ipolB => some .B
  | .gpintenA => some .A
  | .gpintenB => some .B
  | .defvalA => some .A
  | .defvalB => some .B
  | .intconA => some .A
  | .intconB => some .B
  | .iocon => none
  | .gppuA => some .A
  | .gppuB => some .B
  | .intfA => some .A
  | .intfB => some .B
  | .intcapA => some .A
  | .intcapB => some .B
  | .gpioA => some .A
  | .gpioB => some .B
  | .olatA => some .A
  | .olatB => some .B

/-- The "Device access" column of R121, by kind. -/
def regAccess (r : RegName) : RegAccess :=
  match regKind r with
  | .direction => .readWrite
  | .polarity => .readWrite
  | .interruptEnable => .readWrite
  | .interruptDefault => .readWrite
  | .interruptControl => .readWrite
  | .ioConfig => .readWrite
  | .pullUp => .readWrite
  | .interruptFlag => .readOnly
  | .interruptCapture => .readOnly
  | .port => .readPins
  | .outputLatch => .readWrite

/-- The bit position of an I/O-config field (R125). -/
def ioconPos : IoconField → Nat
  | .bank => 7
  | .mirror => 6
  | .seqop => 5
  | .disslw => 4
  | .haen => 3
  | .odr => 2
  | .intpol => 1

/-- The accessor IoconBit (R127): the mask `1 << pos(name)`. -/
def ioconBit (f : IoconField) : Byte := 1#8 <<< ioconPos f

/-- The accessor PinDecode (R128): `none` is its `Invalid`. -/
def pinDecode (p : Byte) : Option (Half × BitVec 3) :=
  if p > 15#8 then none
  else some (if p.getLsbD 3 then .B else .A, p.extractLsb' 0 3)

/-- The accessor HalfRegs (R129): the direction offset and the output-latch offset of a half. -/
def halfRegs (m : RegMap) : Half → Byte × Byte
  | .A => (m.iodirA, m.olatA)
  | .B => (m.iodirB, m.olatB)

/-- The accessor SetMask (R130). -/
def setMask (bit : BitVec 3) : Byte := 1#8 <<< bit.toNat

/-- The accessor ClrMask (R130). -/
def clrMask (bit : BitVec 3) : Byte := ~~~ setMask bit

/-- The accessor ApplyBit (R131). -/
def applyBit (prev : Byte) (bit : BitVec 3) (d : Bool) : Byte :=
  if d then prev ||| setMask bit else prev &&& clrMask bit

/-- The accessor DirAllOutputs (R132): the whole byte is 0x00, not the one pin's bit. -/
def dirAllOutputs (v : Byte) : Bool := v == 0x00#8

end Sys2Proof.Machine
end

