-- ==== Sys2Proof/Machine/State.lean ====
section
/-! DEFINITION. The state of the block (10_state.md R20-R38), the moves of the world around it, the reasons a step can stop,
and the state after reset (R37, R240). -/

namespace Sys2Proof.Machine

/-- PH (R21): which frame a command is at. -/
inductive Phase where
  | idle
  | fOne
  | fDir
  | fLat
  | fWr
  | fVrb
  deriving DecidableEq, Repr

/-- SUB (R21): where that frame is. `xfer`: the frame in TX is with the transport, CS_N = 0. `settle`: CS_N = 1, waiting out
T_SETTLE, after the frame's answer or, before a command's first frame, after the previous command's last (entry 7). -/
inductive SubPhase where
  | xfer
  | settle
  deriving DecidableEq, Repr

/-- C.* (R22): the fields latched from the command word. A field the operation does not use keeps its old bits (entry 4). -/
structure Latched where
  op : BitVec 2
  addr : Byte
  reg : Byte
  pin : Byte
  d : Bool
  val : Byte
  deriving DecidableEq, Repr

/-- W.* (R23): the working registers of SET_OUTPUT. -/
structure Work where
  half : Half
  bit : BitVec 3
  dirReg : Byte
  latReg : Byte
  dirV : Byte
  prev : Byte
  new : Byte
  vrb : Byte
  deriving DecidableEq, Repr

/-- RSP.CODE (R32). Codes 5 and 6 are never written. -/
inductive Code where
  | ok
  | errTransport
  | errInvalidParam
  | errConfigMismatch
  | errIllegalCommand
  | noneYet
  deriving DecidableEq, Repr

/-- RSP (R27) by its fields; the reserved bits, which read 0, appear in `Rsp.word` (Flags.lean). -/
structure Rsp where
  busy : Bool
  rvalid : Bool
  vvalid : Bool
  code : Code
  nfr : BitVec 4
  vdata : Byte
  rdata : Byte
  deriving DecidableEq, Repr

/-- ST (R26): `elapsed` after reset, when no settle is owed; otherwise the time since CS_N last rose (entry 6). -/
inductive SettleTimer where
  | elapsed
  | since (t : Nat)
  deriving DecidableEq, Repr

/-- What the transport answers to a frame (R66, R155); that it never answers is the absence of an answer. -/
inductive Answer where
  | ok (rx : Bytes3)
  | err
  deriving DecidableEq, Repr

/-- A frame event (R9): the request and its outcome. -/
structure FrameEvent where
  tx : Bytes3
  ans : Answer
  deriving DecidableEq, Repr

/-- The registers of the reference devices (R70), by address `hw * 256 + offset`, in canonical form (Memory.lean). -/
abbrev Memory := List Host.Cell

/-- What a frame that a reset cuts short does to one reference device, a draw (U5; entry 16): if the frame selects device `hw`,
its addressed register is left holding `v`. -/
structure CutDraw where
  hw : BitVec 3
  v : Byte
  deriving DecidableEq, Repr

/-- One move of the world outside the block (entry 1). -/
inductive Input where
  /-- The transport answers the frame in progress with `a`, whatever it likes: the oracle of R66. -/
  | oracle (a : Answer)
  /-- The reference transport answers the frame in progress `Ok` from the reference devices (R70-R79); `fill` is the bytes
  that R72 and R73 leave as any value. -/
  | device (fill : Bytes3)
  /-- The reference transport answers `Err`; bit hw of `applied` says whether device hw took an errored write (R77). -/
  | deviceErr (applied : BitVec 8)
  /-- The answer to a frame that a reset cut short arrives: it is ignored (R241). -/
  | lateAnswer (a : Answer)
  /-- Time `t` passes (R26). -/
  | elapse (t : Nat)
  /-- The host resets the block (R241, R256). If a frame is in progress, it has the effects `draws` on the reference devices it
  selects (U5), and none on a device that no draw names. -/
  | reset (draws : List CutDraw)
  deriving DecidableEq, Repr

/-- Why a step stops with a fault. -/
inductive Fault where
  /-- Raised by the continuation of a command in a state that no rule describes: BUSY = 1 with PH = IDLE, or PH = F_ONE with
  C.OP not that of REG_WRITE or REG_READ. No step leads there from a state that satisfies `BlockInv` (entry 18). Safe: the
  model stops where the hardware has no such state. -/
  | inconsistentPhase
  deriving DecidableEq, Repr

/-- Why a step is refused. -/
inductive Refusal where
  /-- An instruction without a meaning; no arm of `exec` answers it. Safe. -/
  | notModelled (mnemonic : String)
  /-- Raised when the reference devices are to answer a write frame that R72 puts outside the reference model: "the model refuses
  such a run" (R72, U6, U7; entry 13). Never raised for a read, for a frame that selects no
  device, nor for an oracle answer. Safe: the model stops where a real device
  goes on. -/
  | outsideReferenceModel
  deriving DecidableEq, Repr

/-- The machine: the block's state (R20), its parameters (R6), and the world it is in. -/
structure State where
  /-- PH (R21). -/
  ph : Phase
  /-- SUB (R21); no meaning while PH = IDLE. -/
  sub : SubPhase
  /-- C.* (R22). -/
  cmd : Latched
  /-- W.* (R23). -/
  work : Work
  /-- TX (R24). -/
  tx : Bytes3
  /-- RX (R24). -/
  rx : Bytes3
  /-- Whether RX holds a value (R24): it holds none after an `Err` answer, and none after reset. -/
  rxHeld : Bool
  /-- CS_N (R25), active low: false is asserted. -/
  csN : Bool
  /-- ST (R26). -/
  st : SettleTimer
  /-- n_frames (R20, R156). -/
  nFrames : BitVec 3
  /-- RSP (R27). -/
  rsp : Rsp
  /-- The instance's parameters (R6, R38): no register, changed by no step (entry 5). -/
  params : Params
  /-- The command words the host has still to issue, in order (R90, R250; entry 1). -/
  port : List CmdWord
  /-- The moves of transport, time and reset line still to come (entry 1). -/
  inputs : List Input
  /-- The trace (R9), oldest event first: an observation, not hardware state (entry 19). -/
  trace : List FrameEvent
  /-- Bit hw: a reference device with hardware address hw is on the bus (R70; entry 12). -/
  present : BitVec 8
  /-- DEV[hw][r], the reference devices' registers (R70, R36). -/
  mem : Memory
  deriving DecidableEq, Repr

/-- C.* after reset: the spec gives no value (R37); all zero is the model's choice (DESIGN CHOICE, entry 3; unsafe). -/
def Latched.reset : Latched := ⟨0#2, 0x00#8, 0x00#8, 0x00#8, false, 0x00#8⟩

/-- W.* after reset: the spec gives no value (R37); all zero is the model's choice (DESIGN CHOICE, entry 3; unsafe). -/
def Work.reset : Work := ⟨.A, 0#3, 0x00#8, 0x00#8, 0x00#8, 0x00#8, 0x00#8, 0x00#8⟩

/-- RSP after reset, 0x07000000 (R37). -/
def Rsp.reset : Rsp := ⟨false, false, false, .noneYet, 0#4, 0x00#8, 0x00#8⟩

/-- The machine right after power-on: the block as R37 and R240 say (zero where they give no value, DESIGN CHOICE, entry 3),
the default parameters (entry 5), nothing waiting outside, an empty trace, and the devices of BANK_LIST (hw 0, 1, 2, 4, 5, 6;
R52, entry 12) at their power-on values (R76: `mem` lists nothing). -/
def State.reset : State where
  ph := .idle
  sub := .settle
  cmd := Latched.reset
  work := Work.reset
  tx := ⟨0x00#8, 0x00#8, 0x00#8⟩
  rx := ⟨0x00#8, 0x00#8, 0x00#8⟩
  rxHeld := false
  csN := true
  st := .elapsed
  nFrames := 0#3
  rsp := Rsp.reset
  params := paramsDefault
  port := []
  inputs := []
  trace := []
  present := 0x77#8
  mem := []

end Sys2Proof.Machine
end

