-- ==== Sys2Proof/Machine/Memory.lean ====
section
/-! DEFINITION. The registers of the reference devices as a list of (address, byte) pairs in one canonical form: addresses
strictly rising, and no entry equal to what an unlisted address reads as (R70, R76; entry 23). -/

namespace Sys2Proof.Machine

/-- What an unlisted address reads as, the device's power-on value (R76): 0xFF for IODIRA and IODIRB, 0x00 elsewhere. -/
def Memory.blank (a : Nat) : Byte :=
  if a % 256 = 0 ∨ a % 256 = 1 then 0xFF#8 else 0x00#8

/-- The byte at an address. -/
def Memory.read : Memory → Nat → Byte
  | [], a => Memory.blank a
  | (k, v) :: rest, a => if a = k then v else Memory.read rest a

/-- Writing one byte keeps the canonical form: the value an unlisted address reads as removes the entry. -/
def Memory.write : Memory → Nat → Byte → Memory
  | [], a, v => if v = Memory.blank a then [] else [(a, v)]
  | (k, u) :: rest, a, v =>
    if a < k then (if v = Memory.blank a then (k, u) :: rest else (a, v) :: (k, u) :: rest)
    else if a = k then (if v = Memory.blank a then rest else (a, v) :: rest)
    else (k, u) :: Memory.write rest a v

/-- The canonical form. -/
def Memory.wf : Memory → Bool
  | [] => true
  | (k, v) :: rest => v != Memory.blank k && rest.all (fun c => decide (k < c.1)) && Memory.wf rest

end Sys2Proof.Machine
end

