-- ==== Sys2Proof/Machine/Devices.lean ====
section
/-! DEFINITION. The reference environment of 20_memory.md section 6 (R70-R79): up to eight MCP23S17-class devices behind the
transport. It is no part of the block: only the inputs `device`, `deviceErr` and `reset` reach it, and an `oracle` input
answers a frame without it (R66). -/

namespace Sys2Proof.Machine

/-- The answer of the world to the frame in progress, with the devices' registers after it. -/
inductive Reply where
  /-- This input is no answer. -/
  | silent
  /-- The frame is answered, and the devices hold `mem` after it. -/
  | answer (a : Answer) (mem : Memory)
  /-- The reference model refuses the frame (R72, U7). -/
  | outside
  deriving DecidableEq, Repr

/-- The offsets whose byte a reference device holds: 0x00 to 0x0D, 0x14 and 0x15 (R72, R73). -/
def storedOffset (r : Byte) : Bool := decide (r ≤ 0x0D#8) || r == 0x14#8 || r == 0x15#8

/-- The two offsets of IOCON (R122). -/
def isIocon (r : Byte) : Bool := r == 0x0A#8 || r == 0x0B#8

/-- Where register `r` of device `hw` is kept; both offsets of IOCON name one byte (R70, R122). -/
def deviceAddr (hw : Nat) (r : Byte) : Nat :=
  hw * 256 + (if r = 0x0B#8 then 0x0A#8 else r).toNat

/-- The I/O-config byte of a device. -/
def deviceIocon (m : Memory) (hw : Nat) : Byte := Memory.read m (deviceAddr hw 0x0A#8)

/-- A register's value as a read frame returns it; IOCON bit 0 reads as 0 whatever was written (R74). -/
def deviceRead (m : Memory) (hw : Nat) (r : Byte) : Byte :=
  if isIocon r then Memory.read m (deviceAddr hw r) &&& 0xFE#8 else Memory.read m (deviceAddr hw r)

/-- Whether byte 0 of a frame selects device `hw` (R71): the prefix 0b0100 and, with IOCON.HAEN = 1, its own address pins;
with HAEN = 0 the device-select values of the chosen reading of U9. -/
def selectsDevice (p : Params) (m : Memory) (b : Byte) (hw : Nat) : Bool :=
  b.extractLsb' 4 4 == 4#4 &&
    (if (deviceIocon m hw).getLsbD 3 then b.extractLsb' 1 3 == BitVec.ofNat 3 hw
     else match p.haenZero with
      | .onlyZero => b.extractLsb' 1 3 == 0#3
      | .everySelect => true)

/-- The devices on the bus that a frame selects, in order. -/
def selectedDevices (p : Params) (present : BitVec 8) (m : Memory) (b : Byte) : List Nat :=
  [0, 1, 2, 3, 4, 5, 6, 7].filter (fun hw => present.getLsbD hw && selectsDevice p m b hw)

/-- The register, by its offset with BANK = 0, that offset `r` of a frame addresses in device `hw`: the map holds only for BANK = 0,
and with BANK = 1 the registers are at other offsets (R124), which the spec does not give (entry 26). -/
def addressed (m : Memory) (hw : Nat) (r : Byte) : Byte :=
  if (deviceIocon m hw).getLsbD 7 then Config.bankedRegister r else r

/-- Put `v` into the register that offset `r` addresses in device `hw`, if the device has it (R70: 0x00 to 0x15). `m` is the
devices before the frame, `acc` what the frame has made of them so far. -/
def storeAddressed (m : Memory) (r : Byte) (acc : Memory) (hw : Nat) (v : Byte) : Memory :=
  if addressed m hw r ≤ 0x15#8 then Memory.write acc (deviceAddr hw (addressed m hw r)) v else acc

/-- A write of `v` at offset `r` of each listed device (R72). -/
def writeDevices (m : Memory) (hws : List Nat) (r v : Byte) : Memory :=
  hws.foldl (fun acc hw => storeAddressed m r acc hw v) m

/-- A request is a write iff bit 0 of its first byte is 0 (R51, R96). -/
def isWriteRequest (tx : Bytes3) : Bool := !tx.b0.getLsbD 0

/-- The frames of which R72 says "is outside the reference model: the model refuses such a run" (U6, U7), `hws` being the devices the
frame selects: a write to a device with r in 0x0E to 0x13 or r ≥ 0x16, or of IOCON with bit 7 (BANK) = 1. A frame that selects no
device changes none (R75) and is none of these (entry 13). -/
def outsideReference (hws : List Nat) (tx : Bytes3) : Bool :=
  !hws.isEmpty && isWriteRequest tx && (!storedOffset tx.b1 || (isIocon tx.b1 && tx.b2.getLsbD 7))

/-- What a read at offset `r` of the one selected device returns in the third byte (R73, R124): its register, if the device stores
the one addressed, and otherwise any value, `any` (U6, U12). -/
def readDevice (m : Memory) (hw : Nat) (r any : Byte) : Byte :=
  if storedOffset (addressed m hw r) then deviceRead m hw (addressed m hw r) else any

/-- The reference transport's `Ok` answer (R72, R73, R75): a write is stored in every selected device; a read of the one selected
device returns its register; every other response byte is `fill`'s (U1, U6, U8, U12). -/
def deviceOk (p : Params) (present : BitVec 8) (m : Memory) (tx fill : Bytes3) : Reply :=
  let hws := selectedDevices p present m tx.b0
  if outsideReference hws tx then .outside
  else if isWriteRequest tx then .answer (.ok fill) (writeDevices m hws tx.b1 tx.b2)
  else match hws with
    | [hw] => .answer (.ok ⟨fill.b0, fill.b1, readDevice m hw tx.b1 fill.b2⟩) m
    | _ => .answer (.ok fill) m

/-- The reference transport's `Err` answer (R77): each selected device took the write or not, as `applied` says (U4). -/
def deviceErrReply (p : Params) (present : BitVec 8) (m : Memory) (tx : Bytes3) (applied : BitVec 8) : Reply :=
  let hws := selectedDevices p present m tx.b0
  if outsideReference hws tx then .outside
  else if isWriteRequest tx then
    .answer .err (writeDevices m (hws.filter (fun hw => applied.getLsbD hw)) tx.b1 tx.b2)
  else .answer .err m

/-- The devices after a reset has cut the frame `tx` short (R241, U5; entry 16): each selected device that a draw names has the
drawn byte in the register addressed, each with its own, and every other device is as it was. -/
def cutDevices (p : Params) (present : BitVec 8) (m : Memory) (tx : Bytes3) (draws : List CutDraw) : Memory :=
  (draws.filter (fun d => (selectedDevices p present m tx.b0).contains d.hw.toNat)).foldl
    (fun acc d => storeAddressed m tx.b1 acc d.hw.toNat d.v) m

/-- What an input says to the frame `tx` in progress (R66, R155). -/
def respond (p : Params) (present : BitVec 8) (m : Memory) (tx : Bytes3) : Input → Reply
  | .oracle a => .answer a m
  | .device fill => deviceOk p present m tx fill
  | .deviceErr applied => deviceErrReply p present m tx applied
  | .lateAnswer _ => .silent
  | .elapse _ => .silent
  | .reset _ => .silent

end Sys2Proof.Machine
end

