-- ==== Sys2Proof/Machine/Flags.lean ====
section
/-! DEFINITION. The response register as the host reads it (10_state.md R27, R32) and the fields that `finish` writes. -/

namespace Sys2Proof.Machine

/-- The number of a status code (R32). -/
def codeBits : Code → BitVec 3
  | .ok => 0#3
  | .errTransport => 1#3
  | .errInvalidParam => 2#3
  | .errConfigMismatch => 3#3
  | .errIllegalCommand => 4#3
  | .noneYet => 7#3

/-- A bit as a word. -/
def bitWord (b : Bool) : BitVec 32 := if b then 1#32 else 0#32

/-- RSP as one word, `BUSY<<31 | RVALID<<30 | VVALID<<29 | CODE<<24 | NFR<<16 | VDATA<<8 | RDATA` (R27; the formula of
42_chip_driver.md): bits 28:27 and 23:20 are reserved and read 0. -/
def Rsp.word (r : Rsp) : BitVec 32 :=
  bitWord r.busy <<< 31 ||| bitWord r.rvalid <<< 30 ||| bitWord r.vvalid <<< 29 |||
    (codeBits r.code).setWidth 32 <<< 24 ||| r.nfr.setWidth 32 <<< 16 ||| r.vdata.setWidth 32 <<< 8 ||| r.rdata.setWidth 32

/-- RSP as `finish(code, r, v)` leaves it (R27, D6): BUSY 0, and a result that is none has its valid bit 0 and its byte 0x00. -/
def finishedRsp (code : Code) (r v : Option Byte) (n : BitVec 3) : Rsp where
  busy := false
  rvalid := r.isSome
  vvalid := v.isSome
  code := code
  nfr := n.setWidth 4
  vdata := v.getD 0x00#8
  rdata := r.getD 0x00#8

/-- RSP as acceptance leaves it (R170, R27): BUSY 1, every other field that of the previous command. -/
def busyRsp (r : Rsp) : Rsp := { r with busy := true }

end Sys2Proof.Machine
end

