-- ==== Sys2Proof/Machine/Operands.lean ====
section
/-! DEFINITION. The encoders and decoders of the frame codec (41_codec.md R150-R154), which read and write no state, and the
order of a frame's bits on the wire (R54, R161). -/

namespace Sys2Proof.Machine

/-- EncWrite(a, r, v) (R151): `[a & 0xFE, r, v]`. -/
def encWrite (a r v : Byte) : Bytes3 := ⟨a &&& 0xFE#8, r, v⟩

/-- EncRead(a, r) (R152): `[a | 0x01, r, DUMMY]`. -/
def encRead (a r : Byte) : Bytes3 := ⟨a ||| 0x01#8, r, Config.dummy⟩

/-- DecWrite(rx) (R153): every byte is discarded. -/
def decWrite (_rx : Bytes3) : Unit := ()

/-- DecRead(rx) (R154): `rx[2]`. -/
def decRead (rx : Bytes3) : Byte := rx.b2

/-- Byte i of three (R53): byte 0 is the first on the bus. -/
def byteAt (b : Bytes3) : Nat → Byte
  | 0 => b.b0
  | 1 => b.b1
  | _ => b.b2

/-- The bit driven (of `tx`) or sampled (of `rx`) on clock cycle k, 0 ≤ k < 24 (R161): bit 7 − (k mod 8) of byte k div 8. -/
def wireBit (b : Bytes3) (k : Nat) : Bool := (byteAt b (k / 8)).getLsbD (7 - k % 8)

end Sys2Proof.Machine
end

