-- ==== Sys2Proof/Machine/Ops.lean ====
section
/-! DEFINITION. The named operations on the state: acceptance, the parts of the frame procedure (41_codec.md R156), `finish`,
the one action that ends every command and reports every error (10_state.md R27, 60_exceptions.md R210), and reset. -/

namespace Sys2Proof.Machine

/-- ST ≥ T_SETTLE (R26); after reset no settle is owed. -/
def State.settled (s : State) : Bool :=
  match s.st with
  | .elapsed => true
  | .since t => Nat.ble s.params.tSettle t

/-- The world's moves still to come. -/
def withInputs (l : List Input) (s : State) : State := { s with inputs := l }

/-- The settle timer. -/
def withTimer (st : SettleTimer) (s : State) : State := { s with st := st }

/-- The reference devices' registers. -/
def withMem (mem : Memory) (s : State) : State := { s with mem := mem }

/-- PH names the next frame of the command. -/
def withPhase (ph : Phase) (s : State) : State := { s with ph := ph }

/-- ST after time `t`, with CS_N high (R26). -/
def laterTimer (t : Nat) : SettleTimer → SettleTimer
  | .elapsed => .elapsed
  | .since u => .since (u + t)

/-- Time `t` passes with CS_N high. -/
def passTime (t : Nat) (s : State) : State := withTimer (laterTimer t s.st) s

/-- The accepting step (R170): BUSY set, the frame counter zeroed; no frame of the command is on the bus yet (entry 7). -/
def accept (s : State) : State :=
  { s with rsp := busyRsp s.rsp, nFrames := 0#3, sub := .settle }

/-- `finish(code, r, v)` (R27): RSP written, BUSY cleared, PH back to IDLE. -/
def finish (code : Code) (r v : Option Byte) (s : State) : State :=
  { s with rsp := finishedRsp code r v s.nFrames, ph := .idle }

/-- The lines of R156 that hand a request to the transport. -/
def launch (tx : Bytes3) (s : State) : State :=
  { s with tx := tx, csN := false, sub := .xfer, nFrames := s.nFrames + 1#3 }

/-- RX after an answer (R24): the response of an `Ok`; an `Err` writes nothing there. -/
def receivedBytes : Answer → Bytes3 → Bytes3
  | .ok rx, _ => rx
  | .err, rx => rx

/-- Whether RX holds a value after an answer (R24). -/
def isOk : Answer → Bool
  | .ok _ => true
  | .err => false

/-- The lines of R156 that follow the transport's answer; `mem` is the devices' registers after it. RX is written by an `Ok`
answer and holds no value after an `Err` (R24). -/
def answered (a : Answer) (mem : Memory) (s : State) : State :=
  { s with
    csN := true, sub := .settle, st := .since 0, trace := s.trace ++ [FrameEvent.mk s.tx a], mem := mem,
    rx := receivedBytes a s.rx, rxHeld := isOk a }

/-- How far a frame got with the inputs there are. -/
inductive FrameRun where
  /-- The frame was answered and its settle time has elapsed: control is back with the caller. -/
  | returned (s : State)
  /-- The block waits, for the settle time before or after the frame or for the transport. -/
  | waiting (s : State)
  /-- The reference devices refuse the frame: R72, "the model refuses such a run" (U6, U7). -/
  | outside
  deriving DecidableEq, Repr

/-- Go on with what follows in the frame procedure. -/
def FrameRun.andThen (f : FrameRun) (k : State → FrameRun) : FrameRun :=
  match f with
  | .returned s => k s
  | .waiting s => .waiting s
  | .outside => .outside

/-- Go on with the rest of the command. A run that R72 says the model refuses stops here by name (U6, U7; entry 13). -/
def FrameRun.done (f : FrameRun) (k : State → Host.Outcome State Fault Refusal) : Host.Outcome State Fault Refusal :=
  match f with
  | .returned s => k s
  | .waiting s => .next s
  | .outside => .refused .outsideReferenceModel

/-- Let inputs happen until ST ≥ T_SETTLE or none is left; a reset is left to the next step. There is no frame in progress, so
an answer that arrives is ignored (entry 17). -/
def awaitSettleOn : List Input → State → FrameRun
  | [], s =>
    match s.settled with
    | true => .returned (withInputs [] s)
    | false => .waiting (withInputs [] s)
  | i :: rest, s =>
    match s.settled, i with
    | true, _ => .returned (withInputs (i :: rest) s)
    | false, .reset _ => .waiting (withInputs (i :: rest) s)
    | false, .elapse t => awaitSettleOn rest (passTime t s)
    | false, .oracle _ => awaitSettleOn rest s
    | false, .device _ => awaitSettleOn rest s
    | false, .deviceErr _ => awaitSettleOn rest s
    | false, .lateAnswer _ => awaitSettleOn rest s

/-- `wait until ST >= T_SETTLE` (R156, R157). -/
def awaitSettle (s : State) : FrameRun := awaitSettleOn s.inputs s

/-- Whether an input is a reset. -/
def isReset : Input → Bool
  | .reset _ => true
  | .oracle _ => false
  | .device _ => false
  | .deviceErr _ => false
  | .lateAnswer _ => false
  | .elapse _ => false

/-- Let inputs happen until one answers the frame in TX; a reset is left to the next step. -/
def awaitAnswerOn : List Input → State → FrameRun
  | [], s => .waiting (withInputs [] s)
  | i :: rest, s =>
    match respond s.params s.present s.mem s.tx i, isReset i with
    | .answer a m, _ => .returned (answered a m (withInputs rest s))
    | .outside, _ => .outside
    | .silent, true => .waiting (withInputs (i :: rest) s)
    | .silent, false => awaitAnswerOn rest s

/-- `ans <- Transfer(tx)` and the lines after it up to the settle wait (R155, R156): with no answer the block stays here, for
ever if none comes (R160). -/
def awaitAnswer (s : State) : FrameRun := awaitAnswerOn s.inputs s

/-- Frame(tx) (R156), from its first line. While a frame is on the bus no other begins (R5, R57): it waits. -/
def frame (tx : Bytes3) (s : State) : FrameRun :=
  match s.csN with
  | true => (awaitSettle s).andThen fun s1 => (awaitAnswer (launch tx s1)).andThen awaitSettle
  | false => .waiting s

/-- Frame(tx) from where the transport has it (R156): the block was waiting for the answer. -/
def resumeTransfer (s : State) : FrameRun := (awaitAnswer s).andThen awaitSettle

/-- WriteReg(a, r, v) (R171), the device-register write. Its response is discarded (R153). -/
def writeReg (a r v : Byte) (s : State) : FrameRun := frame (encWrite a r v) s

/-- ReadReg(a, r) (R172), the device-register read; its value is then DecRead of RX. -/
def readReg (a r : Byte) (s : State) : FrameRun := frame (encRead a r) s

/-- The value of the read that has returned: `some (DecRead rx)`, or `none` after `Err` (R172, R24). -/
def State.readValue (s : State) : Option Byte :=
  match s.rxHeld with
  | true => some (decRead s.rx)
  | false => none

/-- A command that no rule continues (entry 18). -/
def stuckPhase : Host.Outcome State Fault Refusal := .fault .inconsistentPhase

/-- The block after a reset (R37, R240-R242): every register at its reset value, CS_N high, no settle owed, no frame sent. The
parameters, the host's words, the world's moves and the trace are not the block's and stay. -/
def resetBlock (s : State) : State :=
  { State.reset with
    params := s.params, port := s.port, inputs := s.inputs, trace := s.trace, present := s.present, mem := s.mem }

/-- The host resets the block: a frame in progress is cut short, with whatever effect on the devices (R241, U5). -/
def hostReset (draws : List CutDraw) (s : State) : State :=
  match s.csN with
  | true => resetBlock s
  | false => resetBlock (withMem (cutDevices s.params s.present s.mem s.tx draws) s)

/-- The port takes the next word (R170). -/
def takeWord (s : State) : State := { s with port := s.port.tail }

/-- One move of the world while the block is IDLE with no word offered: time passes; an answer finds no frame and is ignored
(entry 17). -/
def idleInput : Input → State → State
  | .elapse t, s => passTime t s
  | .oracle _, s => s
  | .device _, s => s
  | .deviceErr _, s => s
  | .lateAnswer _, s => s
  | .reset draws, s => hostReset draws s

end Sys2Proof.Machine
end

