-- ==== Sys2Proof/Machine/Codec.lean ====
section
/-! DEFINITION. Family 2, the bus transaction codec (41_codec.md): the meanings of the two request frames, which the block
emits. Each is the frame procedure of R156 on its own request: settle wait, TX, CS_N low, the frame counted, the transport's
answer, CS_N high, the trace, RX, and the settle wait after it. There is no retry (R159) and no timeout (R160). -/

namespace Sys2Proof.Machine

/-- How a frame as an instruction leaves the machine: the state it reached, returned or still waiting. -/
def frameOutcome (f : FrameRun) : Host.Outcome State Fault Refusal := f.done .next

/-- WRITE_FRAME (R96, R151, R156). -/
def execWriteFrame (a r v : Byte) (s : State) : Host.Outcome State Fault Refusal :=
  frameOutcome (frame (encWrite a r v) s)

/-- READ_FRAME (R97, R152, R156). -/
def execReadFrame (a r : Byte) (s : State) : Host.Outcome State Fault Refusal :=
  frameOutcome (frame (encRead a r) s)

end Sys2Proof.Machine
end

