-- ==== Sys2Proof/Machine/Driver.lean ====
section
/-! DEFINITION. Family 3, the chip driver (42_chip_driver.md): the three host commands and the illegal word. A command is
written as its pseudocode: the definitions named `after…` are the lines that follow the frame of one PH, so that a command
whose frame still waits for the transport or for the settle time goes on from them later (`continueCommand`). A command offered
while BUSY = 1 is not accepted and changes nothing (R170; entry 10). -/

namespace Sys2Proof.Machine

/-- REG_WRITE after its frame (R173). -/
def afterRegWrite (s : State) : Host.Outcome State Fault Refusal :=
  match s.rxHeld with
  | true => .next (finish .ok none none s)
  | false => .next (finish .errTransport none none s)

/-- REG_READ after its frame (R174). -/
def afterRegRead (s : State) : Host.Outcome State Fault Refusal :=
  match s.readValue with
  | some x => .next (finish .ok (some x) none s)
  | none => .next (finish .errTransport none none s)

/-- The working registers with the value re-read (R183). -/
def verifyValue (y : Byte) (s : State) : State := { s with work := { s.work with vrb := y } }

/-- SET_OUTPUT after the verification re-read (step 8, R183): its failure is ignored. -/
def afterVerify (s : State) : Host.Outcome State Fault Refusal :=
  match s.readValue with
  | some y => .next (finish .ok (some s.work.new) (some y) (verifyValue y s))
  | none => .next (finish .ok (some s.work.new) none s)

/-- SET_OUTPUT after the latch write (step 7, R182), with step 8 when VERIFY_READBACK is true (R183). -/
def afterLatchWrite (s : State) : Host.Outcome State Fault Refusal :=
  match s.rxHeld, s.params.verifyReadback with
  | false, _ => .next (finish .errTransport none none s)
  | true, true => (readReg s.cmd.addr s.work.latReg (withPhase .fVrb s)).done afterVerify
  | true, false => .next (finish .ok (some s.work.new) none s)

/-- The working registers with the latch byte read and the new byte (R180, R181). -/
def newByte (prev : Byte) (s : State) : State :=
  { s with work := { s.work with prev := prev, new := applyBit prev s.work.bit s.cmd.d }, ph := .fWr }

/-- SET_OUTPUT after the latch read (step 5, R180): steps 6 and 7 (R181, R182). -/
def afterLatchRead (s : State) : Host.Outcome State Fault Refusal :=
  match s.readValue with
  | some prev =>
    (writeReg s.cmd.addr s.work.latReg (applyBit prev s.work.bit s.cmd.d) (newByte prev s)).done afterLatchWrite
  | none => .next (finish .errTransport none none s)

/-- The working registers with the direction value read (R178). -/
def directionValue (v : Byte) (s : State) : State := { s with work := { s.work with dirV := v } }

/-- SET_OUTPUT after the direction read (step 3, R178): the guard, then the fresh latch read (step 5, R180). -/
def afterDirection (s : State) : Host.Outcome State Fault Refusal :=
  match s.readValue with
  | some v =>
    match dirAllOutputs v with
    | true => (readReg s.cmd.addr s.work.latReg (withPhase .fLat (directionValue v s))).done afterLatchRead
    | false => .next (finish .errConfigMismatch (some v) none (directionValue v s))
  | none => .next (finish .errTransport none none s)

/-- C.* of a REG_WRITE (R170). -/
def latchRegWrite (a r v : Byte) (s : State) : State :=
  { accept s with cmd := { s.cmd with op := 0#2, addr := a, reg := r, val := v }, ph := .fOne }

/-- C.* of a REG_READ (R170). -/
def latchRegRead (a r : Byte) (s : State) : State :=
  { accept s with cmd := { s.cmd with op := 1#2, addr := a, reg := r }, ph := .fOne }

/-- C.* of a SET_OUTPUT (R170); PH is set at step 3. -/
def latchSetOutput (a p : Byte) (d : Bool) (s : State) : State :=
  { accept s with cmd := { s.cmd with op := 2#2, addr := a, pin := p, d := d } }

/-- Step 2 of SET_OUTPUT (R177): the half, the bit and the half's registers; then PH names step 3's frame. -/
def selectHalf (h : Half) (bit : BitVec 3) (s : State) : State :=
  { s with
    work := { s.work with
      half := h, bit := bit, dirReg := (halfRegs s.params.regMap h).1, latReg := (halfRegs s.params.regMap h).2 },
    ph := .fDir }

/-- REG_WRITE (R173). -/
def execRegWrite (a r v : Byte) (s : State) : Host.Outcome State Fault Refusal :=
  match s.rsp.busy with
  | true => .next s
  | false => (writeReg a r v (latchRegWrite a r v s)).done afterRegWrite

/-- REG_READ (R174). -/
def execRegRead (a r : Byte) (s : State) : Host.Outcome State Fault Refusal :=
  match s.rsp.busy with
  | true => .next s
  | false => (readReg a r (latchRegRead a r s)).done afterRegRead

/-- SET_OUTPUT (R175): step 1, the pin check, before any frame (R176); step 2 (R177); step 3's read (R178), and the rest. -/
def execSetOutput (a p : Byte) (d : Bool) (s : State) : Host.Outcome State Fault Refusal :=
  match s.rsp.busy, pinDecode p with
  | true, _ => .next s
  | false, none => .next (finish .errInvalidParam none none (latchSetOutput a p d s))
  | false, some (h, bit) =>
    (readReg a (halfRegs s.params.regMap h).1 (selectHalf h bit (latchSetOutput a p d s))).done afterDirection

/-- An illegal command word (R186, R215): accepted, no frame, finished at once. -/
def illegalCommand (s : State) : State := finish .errIllegalCommand none none (accept s)

/-- The operation that C.OP holds (R22, R90). -/
inductive Operation where
  | write
  | read
  | set
  deriving DecidableEq, Repr

/-- C.OP read as an operation; 0b11 is reserved and never latched (R90). -/
def commandOf (op : BitVec 2) : Option Operation :=
  if op = 0#2 then some .write
  else if op = 1#2 then some .read
  else if op = 2#2 then some .set
  else none

/-- The lines of the command in progress that follow the frame PH names. -/
def afterFrame (s : State) : Host.Outcome State Fault Refusal :=
  match s.ph with
  | .idle => stuckPhase
  | .fOne =>
    match commandOf s.cmd.op with
    | some .write => afterRegWrite s
    | some .read => afterRegRead s
    | some .set => stuckPhase
    | none => stuckPhase
  | .fDir => afterDirection s
  | .fLat => afterLatchRead s
  | .fWr => afterLatchWrite s
  | .fVrb => afterVerify s

/-- The request frame that the command in progress has due, as an instruction (R99, R173-R175). -/
def dueFrame (s : State) : Instr :=
  match s.ph with
  | .idle => .readFrame s.cmd.addr s.cmd.reg
  | .fOne =>
    match commandOf s.cmd.op with
    | some .write => .writeFrame s.cmd.addr s.cmd.reg s.cmd.val
    | some .read => .readFrame s.cmd.addr s.cmd.reg
    | some .set => .readFrame s.cmd.addr s.cmd.reg
    | none => .readFrame s.cmd.addr s.cmd.reg
  | .fDir => .readFrame s.cmd.addr s.work.dirReg
  | .fLat => .readFrame s.cmd.addr s.work.latReg
  | .fWr => .writeFrame s.cmd.addr s.work.latReg s.work.new
  | .fVrb => .readFrame s.cmd.addr s.work.latReg

/-- The command in progress has its first frame still to hand to the transport (entry 7). -/
def State.frameDue (s : State) : Bool := s.ph != .idle && s.sub == .settle && s.nFrames == 0#3

/-- A command in progress goes on from where it waited: for the transport's answer, or for the settle time of its last frame. -/
def continueCommand (s : State) : Host.Outcome State Fault Refusal :=
  match s.ph, s.sub with
  | .idle, _ => stuckPhase
  | _, .xfer => (resumeTransfer s).done afterFrame
  | _, .settle => (awaitSettle s).done afterFrame

/-- What the port's next word means: an instruction, or `none` for an illegal word (R95). -/
def portInstr (w : CmdWord) : Option Instr := (decodeCommand w).toOption

end Sys2Proof.Machine
end

