-- ==== Sys2Proof/Machine/Dispatch.lean ====
section
/-! DEFINITION. One arm per row of the opcode table, each one direct call of its meaning. -/

namespace Sys2Proof.Machine

def exec (i : Instr) (s : State) : Host.Outcome State Fault Refusal :=
  match i with
  | .regWrite a r v => Sys2Proof.Machine.execRegWrite a r v s
  | .regRead a r => Sys2Proof.Machine.execRegRead a r s
  | .setOutput a p d => Sys2Proof.Machine.execSetOutput a p d s
  | .writeFrame a r v => Sys2Proof.Machine.execWriteFrame a r v s
  | .readFrame a r => Sys2Proof.Machine.execReadFrame a r s

end Sys2Proof.Machine
end

