-- ==== Sys2Proof/Machine/Sequencer.lean ====
section
/-! DEFINITION. Which agent moves next (00_scope.md R4, R5; entry 1), as Step.lean calls it: a reset at the head of the inputs
first; then the command in progress; then the next word at the command port; and with no word offered, one move of the world. -/

namespace Sys2Proof.Machine

/-- BUSY = 0: the port takes the next word (R170), which runs if it is a command and finishes at once if it is none (R186). -/
def stepIdle (s : State) : Host.Outcome State Fault Refusal :=
  match s.port with
  | w :: _ =>
    match portInstr w with
    | some i => exec i (takeWord s)
    | none => .next (illegalCommand (takeWord s))
  | [] =>
    match s.inputs with
    | i :: rest => .next (idleInput i (withInputs rest s))
    | [] => .next s

/-- BUSY = 1: the frame that is due is the next instruction; otherwise the command goes on from where it waited. -/
def stepBusy (s : State) : Host.Outcome State Fault Refusal :=
  match s.frameDue with
  | true => exec (dueFrame s) s
  | false => continueCommand s

/-- One step of the whole machine. -/
def stepMachine (s : State) : Host.Outcome State Fault Refusal :=
  match s.inputs, s.rsp.busy with
  | .reset draws :: rest, _ => .next (hostReset draws (withInputs rest s))
  | _, true => stepBusy s
  | _, false => stepIdle s

/-- The machine with no command in progress, at the end of the last one. -/
def atIdle (s : State) : State :=
  { s with ph := .idle, sub := .settle, csN := true, rsp := { s.rsp with busy := false } }

/-- `w` is the next word at the command port, and the port is ready. -/
def offerWord (w : CmdWord) (s : State) : State :=
  { atIdle s with port := w :: s.port, inputs := s.inputs.dropWhile isReset }

/-- The request `f` is the frame due: the single frame of a command that latched its fields (R96, R97), with no settle owed. -/
def loadFrame (f : FrameWord) (s : State) : State :=
  { s with
    ph := .fOne, sub := .settle, csN := true, st := .elapsed, nFrames := 0#3,
    rsp := { s.rsp with busy := true },
    cmd := { s.cmd with
      op := if f.getLsbD 16 then 1#2 else 0#2, addr := f.bytes.b0 &&& 0xFE#8, reg := f.bytes.b1, val := f.bytes.b2 },
    inputs := s.inputs.dropWhile isReset }

/-- The instruction of `nbits` bits whose number in the opcode table is `w`, placed where the next step takes it: a command
word at the port, a frame in the fields the block sends its next frame from. -/
def placeWord (s : State) (nbits w : Nat) : State :=
  if nbits = 32 then offerWord (BitVec.ofNat 32 w) s
  else if nbits = 24 then loadFrame (BitVec.ofNat 24 w) s
  else s

end Sys2Proof.Machine
end

