-- ==== Sys2Proof/Machine/Step.lean ====
section
/-! DEFINITION. One step of the machine, and the placing of an instruction where the next step takes it (entry 2). -/

namespace Sys2Proof.Machine

/-- One step (Sequencer.lean). -/
def step (s : State) : Host.Outcome State Fault Refusal := stepMachine s

/-- `s` with the instruction whose table number is `w` where `step` takes its next instruction (entry 2). -/
def State.withFetchWord (s : State) (nbits w : Nat) : State := placeWord s nbits w

end Sys2Proof.Machine
end

