-- ==== Sys2Proof/Machine/HostProgram.lean ====
section
/-! DEFINITION. Host programs (30_encoding.md section 3, D25): the lines of the assembler (R100), the pseudo-instructions and
CONFIGURE (R101-R103), the command words they stand for, and the reading of a line of text. The block does not depend on any
of it; the words go to its command port one after another (R250). -/

namespace Sys2Proof.Machine

/-- `<reg>`: a number, or a register name of R121 that stands for its offset (R100). -/
inductive RegOperand where
  | number (n : Nat)
  | name (r : RegName)
  deriving DecidableEq, Repr

/-- One line of a host program (R100, R101). `configure none` is CONFIGURE with BANK_LIST. -/
inductive HostLine where
  | regWrite (addr : Nat) (reg : RegOperand) (val : Nat)
  | regRead (addr : Nat) (reg : RegOperand)
  | setOutput (addr pin : Nat) (on : Bool)
  | word (n : Nat)
  | setOn (addr pin : Nat)
  | setOff (addr pin : Nat)
  | configure (addrs : Option (List Nat))
  deriving DecidableEq, Repr

/-- Assembly errors: no word is written (R100). -/
inductive AsmError where
  /-- An operand that does not fit its field. -/
  | tooBig
  /-- An odd `<addr>`. -/
  | oddAddr
  /-- A mnemonic that is none of the table's. -/
  | noSuchMnemonic
  /-- The wrong number or kind of operands. -/
  | badOperands
  deriving DecidableEq, Repr

/-- An operand of 8 bits (R100). -/
def byteOperand (n : Nat) : Except AsmError Byte := if n ≤ 255 then .ok (BitVec.ofNat 8 n) else .error .tooBig

/-- `<addr>`: 8 bits and even (R100). -/
def addrOperand (n : Nat) : Except AsmError Byte :=
  match byteOperand n with
  | .ok a => if a.getLsbD 0 then .error .oddAddr else .ok a
  | .error e => .error e

/-- `<reg>` (R100). -/
def regOperand (m : RegMap) : RegOperand → Except AsmError Byte
  | .number n => byteOperand n
  | .name r => .ok (regOffset m r)

/-- word = 0x00000000 | addr<<16 | reg<<8 | val (R100). -/
def asmRegWrite (m : RegMap) (addr : Nat) (reg : RegOperand) (val : Nat) : Except AsmError CmdWord := do
  let a ← addrOperand addr
  let r ← regOperand m reg
  let v ← byteOperand val
  return 0x00000000#32 ||| (a.setWidth 32 <<< 16) ||| (r.setWidth 32 <<< 8) ||| v.setWidth 32

/-- word = 0x40000000 | addr<<16 | reg<<8 (R100). -/
def asmRegRead (m : RegMap) (addr : Nat) (reg : RegOperand) : Except AsmError CmdWord := do
  let a ← addrOperand addr
  let r ← regOperand m reg
  return 0x40000000#32 ||| (a.setWidth 32 <<< 16) ||| (r.setWidth 32 <<< 8)

/-- word = 0x80000000 | addr<<16 | pin<<8 | (on ? 1 : 0) (R100). -/
def asmSetOutput (addr pin : Nat) (on : Bool) : Except AsmError CmdWord := do
  let a ← addrOperand addr
  let p ← byteOperand pin
  return 0x80000000#32 ||| (a.setWidth 32 <<< 16) ||| (p.setWidth 32 <<< 8) ||| (if on then 1#32 else 0#32)

/-- `.word <n>`: any 32-bit value, legal or not (R100). -/
def asmWord (n : Nat) : Except AsmError CmdWord := if n < 2 ^ 32 then .ok (BitVec.ofNat 32 n) else .error .tooBig

/-- CONFIGURE over a list (R102): the I/O-config byte to every address, then IODIRA and IODIRB of each to 0x00. -/
def configureLines (addrs : List Nat) : List HostLine :=
  addrs.map (fun a => .regWrite a (.name .iocon) Config.ioconCfg.toNat) ++
    addrs.flatMap (fun a => [.regWrite a (.name .iodirA) 0, .regWrite a (.name .iodirB) 0])

/-- The expansions of R101; every other line is itself. -/
def expandLine : HostLine → List HostLine
  | .setOn a p => [.setOutput a p true]
  | .setOff a p => [.setOutput a p false]
  | .configure none => configureLines (Config.bankList.map BitVec.toNat)
  | .configure (some l) => configureLines l
  | .regWrite a r v => [.regWrite a r v]
  | .regRead a r => [.regRead a r]
  | .setOutput a p d => [.setOutput a p d]
  | .word n => [.word n]

/-- The word of an expanded line; a pseudo-instruction is no expanded line. -/
def asmLine (m : RegMap) : HostLine → Except AsmError CmdWord
  | .regWrite a r v => asmRegWrite m a r v
  | .regRead a r => asmRegRead m a r
  | .setOutput a p d => asmSetOutput a p d
  | .word n => asmWord n
  | .setOn _ _ => .error .badOperands
  | .setOff _ _ => .error .badOperands
  | .configure _ => .error .badOperands

/-- The words of expanded lines, in order. -/
def asmLines (m : RegMap) : List HostLine → Except AsmError (List CmdWord)
  | [] => .ok []
  | l :: rest =>
    match asmLine m l, asmLines m rest with
    | .ok w, .ok ws => .ok (w :: ws)
    | .error e, _ => .error e
    | _, .error e => .error e

/-- A host program's command words (R100-R102). -/
def assemble (m : RegMap) (program : List HostLine) : Except AsmError (List CmdWord) :=
  asmLines m (program.flatMap expandLine)

/-- The text of a register name (R121), in capitals. -/
def regText : RegName → List Char
  | .iodirA => ['I', 'O', 'D', 'I', 'R', 'A']
  | .iodirB => ['I', 'O', 'D', 'I', 'R', 'B']
  | .ipolA => ['I', 'P', 'O', 'L', 'A']
  | .ipolB => ['I', 'P', 'O', 'L', 'B']
  | .gpintenA => ['G', 'P', 'I', 'N', 'T', 'E', 'N', 'A']
  | .gpintenB => ['G', 'P', 'I', 'N', 'T', 'E', 'N', 'B']
  | .defvalA => ['D', 'E', 'F', 'V', 'A', 'L', 'A']
  | .defvalB => ['D', 'E', 'F', 'V', 'A', 'L', 'B']
  | .intconA => ['I', 'N', 'T', 'C', 'O', 'N', 'A']
  | .intconB => ['I', 'N', 'T', 'C', 'O', 'N', 'B']
  | .iocon => ['I', 'O', 'C', 'O', 'N']
  | .gppuA => ['G', 'P', 'P', 'U', 'A']
  | .gppuB => ['G', 'P', 'P', 'U', 'B']
  | .intfA => ['I', 'N', 'T', 'F', 'A']
  | .intfB => ['I', 'N', 'T', 'F', 'B']
  | .intcapA => ['I', 'N', 'T', 'C', 'A', 'P', 'A']
  | .intcapB => ['I', 'N', 'T', 'C', 'A', 'P', 'B']
  | .gpioA => ['G', 'P', 'I', 'O', 'A']
  | .gpioB => ['G', 'P', 'I', 'O', 'B']
  | .olatA => ['O', 'L', 'A', 'T', 'A']
  | .olatB => ['O', 'L', 'A', 'T', 'B']

/-- Every register name. -/
def regNames : List RegName :=
  [.iodirA, .iodirB, .ipolA, .ipolB, .gpintenA, .gpintenB, .defvalA, .defvalB, .intconA, .intconB, .iocon] ++
    [.gppuA, .gppuB, .intfA, .intfB, .intcapA, .intcapB, .gpioA, .gpioB, .olatA, .olatB]

/-- The value of a digit, decimal or hexadecimal, capitals only. -/
def digitValue (c : Char) : Option Nat :=
  if '0' ≤ c ∧ c ≤ '9' then some (c.toNat - 48)
  else if 'A' ≤ c ∧ c ≤ 'F' then some (c.toNat - 55)
  else none

/-- Digits of a number in `base`, most significant first. -/
def digitsValue (base : Nat) : Nat → List Char → Option Nat
  | acc, [] => some acc
  | acc, c :: rest =>
    match digitValue c with
    | some d => if d < base then digitsValue base (acc * base + d) rest else none
    | none => none

/-- A number in decimal or `0x` hexadecimal (R100). The text comes in capitals (`readLine`), so `0X` and either case of a
hexadecimal digit are accepted, of which R100 does not speak: DESIGN CHOICE, entry 24. -/
def numberText : List Char → Option Nat
  | [] => none
  | '0' :: 'X' :: [] => none
  | '0' :: 'X' :: digits => digitsValue 16 0 digits
  | digits => digitsValue 10 0 digits

/-- A blank of the text (entry 24). -/
def isBlank (c : Char) : Bool := c == ' ' || c == '\t'

/-- A text without the blanks around it. -/
def trim (t : List Char) : List Char := ((t.dropWhile isBlank).reverse.dropWhile isBlank).reverse

/-- The parts of a text between commas. -/
def splitCommas : List Char → List (List Char)
  | [] => [[]]
  | c :: rest =>
    if c = ',' then [] :: splitCommas rest
    else match splitCommas rest with
      | part :: parts => (c :: part) :: parts
      | [] => [[c]]

/-- The operands after a mnemonic. -/
def operandTexts (t : List Char) : List (List Char) :=
  if trim t = [] then [] else (splitCommas t).map trim

/-- `<reg>` as text: a register name, or a number (R100). -/
def regOperandText (t : List Char) : Option RegOperand :=
  match regNames.find? (fun r => regText r == t) with
  | some r => some (.name r)
  | none => (numberText t).map .number

/-- `on|off` as text (R100). The text comes in capitals (`readLine`), so `ON` and `Off` are accepted too, of which R100 does not
speak: DESIGN CHOICE, entry 24. -/
def onOffText (t : List Char) : Option Bool :=
  if t = ['O', 'N'] then some true else if t = ['O', 'F', 'F'] then some false else none

/-- Every operand as a number. -/
def numberTexts : List (List Char) → Option (List Nat)
  | [] => some []
  | t :: rest =>
    match numberText t, numberTexts rest with
    | some n, some ns => some (n :: ns)
    | _, _ => none

/-- The line of a mnemonic, which the table has, with its operands; `none` if the operands do not fit it. The text comes in capitals
(`readLine`), so the directive `.word` is accepted in either case too, of which R100 does not speak: DESIGN CHOICE, entry 24. -/
def lineOf (mnemonic : List Char) (ops : List (List Char)) : Except AsmError (Option HostLine) :=
  if mnemonic = ['R', 'E', 'G', '_', 'W', 'R', 'I', 'T', 'E'] then .ok <|
    match ops with
    | [a, r, v] => do return .regWrite (← numberText a) (← regOperandText r) (← numberText v)
    | _ => none
  else if mnemonic = ['R', 'E', 'G', '_', 'R', 'E', 'A', 'D'] then .ok <|
    match ops with
    | [a, r] => do return .regRead (← numberText a) (← regOperandText r)
    | _ => none
  else if mnemonic = ['S', 'E', 'T', '_', 'O', 'U', 'T', 'P', 'U', 'T'] then .ok <|
    match ops with
    | [a, p, d] => do return .setOutput (← numberText a) (← numberText p) (← onOffText d)
    | _ => none
  else if mnemonic = ['S', 'E', 'T', '_', 'O', 'N'] then .ok <|
    match ops with
    | [a, p] => do return .setOn (← numberText a) (← numberText p)
    | _ => none
  else if mnemonic = ['S', 'E', 'T', '_', 'O', 'F', 'F'] then .ok <|
    match ops with
    | [a, p] => do return .setOff (← numberText a) (← numberText p)
    | _ => none
  else if mnemonic = ['C', 'O', 'N', 'F', 'I', 'G', 'U', 'R', 'E'] then .ok <|
    match ops with
    | [] => some (.configure none)
    | l => (numberTexts l).map (fun ns => .configure (some ns))
  else if mnemonic = ['.', 'W', 'O', 'R', 'D'] then .ok <|
    match ops with
    | [n] => (numberText n).map .word
    | _ => none
  else .error .noSuchMnemonic

/-- One line of text (R100): `;` begins a comment, and a line with nothing on it stands for no line. Capitals and small letters are
the same, as R100 says of mnemonics and register names; that they are the same in `on`, `off`, `.word` and numbers too is the
model's choice (DESIGN CHOICE, entry 24). -/
def readLine (text : List Char) : Except AsmError (List HostLine) :=
  let t := trim ((text.takeWhile (· != ';')).map Char.toUpper)
  if t = [] then .ok []
  else match lineOf (t.takeWhile (fun c => !isBlank c)) (operandTexts (t.dropWhile (fun c => !isBlank c))) with
    | .ok (some l) => .ok [l]
    | .ok none => .error .badOperands
    | .error e => .error e

/-- A program's text, one command a line. -/
def readProgram : List (List Char) → Except AsmError (List HostLine)
  | [] => .ok []
  | t :: rest =>
    match readLine t, readProgram rest with
    | .ok l, .ok ls => .ok (l ++ ls)
    | .error e, _ => .error e
    | _, .error e => .error e

end Sys2Proof.Machine
end

