-- ==== Sys2Proof/Safety.lean ====
section
/-! DEFINITION. What the spec promises of every state between steps (10_state.md R20-R32, 42_chip_driver.md R175-R184), as
invariants in the terms the statements use, and the end of a run (R257). -/

namespace Sys2Proof.Machine

/-- The request an instruction puts on the bus; a command puts none itself. -/
def requestOf : Instr → Option Bytes3
  | .regWrite _ _ _ => none
  | .regRead _ _ => none
  | .setOutput _ _ _ => none
  | .writeFrame a r v => some (encWrite a r v)
  | .readFrame a r => some (encRead a r)

/-- The number of frames a command has handed to the transport once the frame of its phase is with it (R185). -/
def framesAt : Phase → BitVec 3
  | .idle => 0#3
  | .fOne => 1#3
  | .fDir => 1#3
  | .fLat => 2#3
  | .fWr => 3#3
  | .fVrb => 4#3

/-- The phases of SET_OUTPUT (R21). -/
def Phase.ofSetOutput : Phase → Bool
  | .idle => false
  | .fOne => false
  | .fDir => true
  | .fLat => true
  | .fWr => true
  | .fVrb => true

/-- The order of the phases within a command (R21). -/
def Phase.rank : Phase → Nat
  | .idle => 0
  | .fOne => 1
  | .fDir => 2
  | .fLat => 3
  | .fWr => 4
  | .fVrb => 5

/-- The phases of SET_OUTPUT after its direction guard (R178). -/
def Phase.pastGuard : Phase → Bool
  | .idle => false
  | .fOne => false
  | .fDir => false
  | .fLat => true
  | .fWr => true
  | .fVrb => true

/-- The phases of SET_OUTPUT once the new byte is computed (R181). -/
def Phase.pastNewByte : Phase → Bool
  | .idle => false
  | .fOne => false
  | .fDir => false
  | .fLat => false
  | .fWr => true
  | .fVrb => true

/-- BUSY is 1 exactly while a command is in progress (R27, R28). -/
abbrev BusyIffPhase (s : State) : Prop := s.rsp.busy = true ↔ s.ph ≠ .idle

/-- CS_N is 0 exactly while a frame is with the transport (R25). -/
abbrev CsLowIffXfer (s : State) : Prop := s.csN = false ↔ s.ph ≠ .idle ∧ s.sub = .xfer

/-- A frame with the transport was handed to it only once ST ≥ T_SETTLE (R26, R157); ST stands still until CS_N rises (entry 6). -/
abbrev SettledInXfer (s : State) : Prop := s.csN = false → s.settled = true

/-- A finished command owes no settle time (R27). -/
abbrev IdleOwesNothing (s : State) : Prop := s.ph = .idle → s.settled = true

/-- n_frames counts the frames of the command (R20, R156): all of its phase's, or none while the first still waits. -/
abbrev FramesCounted (s : State) : Prop :=
  s.ph ≠ .idle →
    s.nFrames = framesAt s.ph ∨ (s.nFrames = 0#3 ∧ s.sub = .settle ∧ (s.ph = .fOne ∨ s.ph = .fDir))

/-- PH is a phase of the latched operation (R21, R22). -/
abbrev OpOfPhase (s : State) : Prop :=
  (s.ph = .fOne → s.cmd.op = 0#2 ∨ s.cmd.op = 1#2) ∧ (s.ph.ofSetOutput = true → s.cmd.op = 2#2)

/-- The latched chip address is a stored address (R51, R94). -/
abbrev StoredAddress (s : State) : Prop := s.ph ≠ .idle → s.cmd.addr.getLsbD 0 = false

/-- The working registers hold the pin's half, bit and registers (R177). -/
abbrev HalfSelected (s : State) : Prop :=
  s.ph.ofSetOutput = true →
    pinDecode s.cmd.pin = some (s.work.half, s.work.bit) ∧
      halfRegs s.params.regMap s.work.half = (s.work.dirReg, s.work.latReg)

/-- Past the guard, the direction value read was 0x00 (R178). -/
abbrev GuardPassed (s : State) : Prop := s.ph.pastGuard = true → s.work.dirV = 0x00#8

/-- The byte to write is the latch byte read with the one bit set or cleared (R181). -/
abbrev NewByteOfLatch (s : State) : Prop :=
  s.ph.pastNewByte = true → s.work.new = applyBit s.work.prev s.work.bit s.cmd.d

/-- A verification frame is sent only with VERIFY_READBACK (R183). -/
abbrev VerifyEnabled (s : State) : Prop := s.ph = .fVrb → s.params.verifyReadback = true

/-- TX holds the request of the phase (R99, R173-R175). -/
abbrev TxOfPhase (s : State) : Prop :=
  s.ph ≠ .idle → s.nFrames ≠ 0#3 → some s.tx = requestOf (dueFrame s)

/-- RSP's fields agree with its code (R27, R29-R32, R211). -/
abbrev RspConsistent (r : Rsp) : Prop :=
  (r.rvalid = false → r.rdata = 0x00#8) ∧
  (r.vvalid = false → r.vdata = 0x00#8) ∧
  (r.vvalid = true → r.code = .ok ∧ r.rvalid = true ∧ r.nfr = 4#4) ∧
  (r.code = .ok → r.nfr = 1#4 ∨ (r.rvalid = true ∧ (r.nfr = 3#4 ∨ r.nfr = 4#4))) ∧
  (r.code = .errTransport → r.rvalid = false ∧ (r.nfr = 1#4 ∨ r.nfr = 2#4 ∨ r.nfr = 3#4)) ∧
  (r.code = .errInvalidParam → r.rvalid = false ∧ r.nfr = 0#4) ∧
  (r.code = .errConfigMismatch → r.rvalid = true ∧ r.rdata ≠ 0x00#8 ∧ r.nfr = 1#4) ∧
  (r.code = .errIllegalCommand → r.rvalid = false ∧ r.nfr = 0#4) ∧
  (r.code = .noneYet → r.rvalid = false ∧ r.nfr = 0#4)

/-- The block's invariant: every promise above. -/
abbrev BlockInv (s : State) : Prop :=
  BusyIffPhase s ∧ CsLowIffXfer s ∧ IdleOwesNothing s ∧ FramesCounted s ∧ OpOfPhase s ∧ StoredAddress s ∧
    HalfSelected s ∧ GuardPassed s ∧ NewByteOfLatch s ∧ VerifyEnabled s ∧ TxOfPhase s ∧ SettledInXfer s ∧ RspConsistent s.rsp

/-- The answer the frame in TX got, read back from RX (R24). -/
def lastAnswer (s : State) : Answer := if s.rxHeld then .ok s.rx else .err

/-- A frame event that is the read `tx` answered `Ok` with the byte `v` (R172). -/
def IsReadOf (e : FrameEvent) (tx : Bytes3) (v : Byte) : Prop :=
  e.tx = tx ∧ ∃ rx, e.ans = .ok rx ∧ decRead rx = v

/-- A trace that ends with the command's direction read, answered 0x00 (R178). -/
def EndsWithGuard (s : State) (tr : List FrameEvent) : Prop :=
  ∃ before e, tr = before ++ [e] ∧ IsReadOf e (encRead s.cmd.addr s.work.dirReg) 0x00#8

/-- A trace that ends with the command's direction read, answered 0x00, and its latch read, answered W.PREV (R178, R180). -/
def EndsWithFreshLatch (s : State) (tr : List FrameEvent) : Prop :=
  ∃ before e f, tr = before ++ [e, f] ∧ IsReadOf e (encRead s.cmd.addr s.work.dirReg) 0x00#8 ∧
    IsReadOf f (encRead s.cmd.addr s.work.latReg) s.work.prev

/-- The guard of R178 and the freshness of R180, seen in the trace at every point of a SET_OUTPUT: when the latch write is with
the transport, the last two frames are the direction read answered 0x00 and the latch read answered W.PREV. -/
def GuardTrace (s : State) : Prop :=
  (s.ph = .fDir → s.sub = .settle → s.nFrames ≠ 0#3 →
    ∃ before, s.trace = before ++ [⟨s.tx, lastAnswer s⟩]) ∧
  (s.ph = .fLat → s.sub = .xfer → EndsWithGuard s s.trace) ∧
  (s.ph = .fLat → s.sub = .settle → ∃ tr, s.trace = tr ++ [⟨s.tx, lastAnswer s⟩] ∧ EndsWithGuard s tr) ∧
  (s.ph = .fWr → s.sub = .xfer → EndsWithFreshLatch s s.trace)

/-- A write request to the output latch of some half (R182). -/
def IsLatchWrite (m : RegMap) (tx : Bytes3) : Prop :=
  isWriteRequest tx = true ∧ (tx.b1 = m.olatA ∨ tx.b1 = m.olatB)

/-- The port is ready and the first frame of a command may start at once (R28, R26). -/
abbrev Ready (s : State) : Prop := s.rsp.busy = false ∧ s.csN = true ∧ s.settled = true

/-- `n` is time enough for T_SETTLE. -/
abbrev SettlesIn (s : State) (n : Nat) : Prop := s.params.tSettle ≤ n

/-- With the reference devices at `mem`, input `i` answers the request `tx` with `a` and leaves them at `mem'`. -/
abbrev Replies (s : State) (mem : Memory) (tx : Bytes3) (i : Input) (a : Answer) (mem' : Memory) : Prop :=
  respond s.params s.present mem tx i = .answer a mem'

/-- The frame `tx` was sent from `s` with nothing else happening in the block: handed to the transport, answered `a` with the
devices at `mem` after it, and time `n` passed; `rest` is what the world has still to do (R156). -/
abbrev FrameSent (s t : State) (tx : Bytes3) (a : Answer) (mem : Memory) (n : Nat) (rest : List Input) : Prop :=
  t = { s with
    tx := tx, csN := true, sub := .settle, st := .since n, nFrames := s.nFrames + 1#3,
    trace := s.trace ++ [FrameEvent.mk tx a], mem := mem, inputs := rest,
    rxHeld := (match a with | .ok _ => true | .err => false),
    rx := (match a with | .ok rx => rx | .err => s.rx) }

/-- The command in progress has finished in `t` with the given RSP fields (R27), `nfr` its frames in all (R31); from `s` on it
sent exactly the frames `events`, the devices are at `mem` and `rest` is still to come from the world; the port is ready again. -/
abbrev CommandEnded (s t : State) (code : Code) (rdata vdata : Option Byte) (nfr : Nat) (events : List FrameEvent)
    (mem : Memory) (rest : List Input) : Prop :=
  t.rsp = ⟨false, rdata.isSome, vdata.isSome, code, BitVec.ofNat 4 nfr, vdata.getD 0x00#8, rdata.getD 0x00#8⟩ ∧
    t.ph = .idle ∧ Ready t ∧ t.trace = s.trace ++ events ∧ t.mem = mem ∧ t.inputs = rest ∧
    t.params = s.params ∧ t.port = s.port ∧ t.present = s.present

/-- A command that was accepted in `s` has finished in `t`: `events` are all its frames. -/
abbrev CommandFinished (s t : State) (code : Code) (rdata vdata : Option Byte) (events : List FrameEvent) (mem : Memory)
    (rest : List Input) : Prop :=
  CommandEnded s t code rdata vdata events.length events mem rest

/-- The byte a read answered `a` gives, or none (R154, R172). -/
def answerByte : Answer → Option Byte
  | .ok rx => some rx.b2
  | .err => none

/-- The time that passes in a list of inputs. -/
def timeIn : List Input → Nat
  | [] => 0
  | .elapse t :: rest => t + timeIn rest
  | .oracle _ :: rest => timeIn rest
  | .device _ :: rest => timeIn rest
  | .deviceErr _ :: rest => timeIn rest
  | .lateAnswer _ :: rest => timeIn rest
  | .reset _ :: rest => timeIn rest

/-- An input that neither answers a frame nor resets the block: a late answer, or time passing. -/
def isQuiet : Input → Bool
  | .oracle _ => false
  | .device _ => false
  | .deviceErr _ => false
  | .lateAnswer _ => true
  | .elapse _ => true
  | .reset _ => false

/-- An input by which the reference devices answer. -/
def isDeviceInput : Input → Bool
  | .oracle _ => false
  | .device _ => true
  | .deviceErr _ => true
  | .lateAnswer _ => false
  | .elapse _ => false
  | .reset _ => false

/-- No reset is the next move of the world. -/
def noResetNext (l : List Input) : Bool := !(l.head?.map isReset).getD false

/-- A host command, as against a frame the block emits. -/
def isCommand : Instr → Bool
  | .regWrite _ _ _ => true
  | .regRead _ _ => true
  | .setOutput _ _ _ => true
  | .writeFrame _ _ _ => false
  | .readFrame _ _ => false

/-- The frame `tx` is sent next and comes back answered `a`, its settle time passed: with the devices at `mem` and the world's
moves `inputs` before it, and at `mem'` and `rest` after it. -/
def FrameBack (s : State) (mem : Memory) (inputs : List Input) (tx : Bytes3) (a : Answer) (mem' : Memory)
    (rest : List Input) : Prop :=
  ∃ i n, inputs = i :: .elapse n :: rest ∧ SettlesIn s n ∧ Replies s mem tx i a mem'

/-- In `s` a command waits for the frame in TX, and that frame now comes back answered `a`, in each way it can have waited
(R156): for the transport, for the settle time after the answer, or for nothing any more. `events` is what the trace gains. -/
def WaitOver (s : State) (a : Answer) (events : List FrameEvent) (mem : Memory) (rest : List Input) : Prop :=
  (s.sub = .xfer ∧ FrameBack s s.mem s.inputs s.tx a mem rest ∧ events = [⟨s.tx, a⟩]) ∨
    (s.sub = .settle ∧ s.nFrames ≠ 0#3 ∧ a = lastAnswer s ∧ events = [] ∧ mem = s.mem ∧
      ((s.settled = true ∧ noResetNext s.inputs = true ∧ rest = s.inputs) ∨
        ∃ u n, s.settled = false ∧ s.st = .since u ∧ s.inputs = .elapse n :: rest ∧ SettlesIn s (u + n)))

/-- `s` is in the middle of the command's phase `ph`, and the wait for its frame is over. -/
def Resumed (s : State) (ph : Phase) (a : Answer) (events : List FrameEvent) (mem : Memory) (rest : List Input) : Prop :=
  BlockInv s ∧ s.ph = ph ∧ WaitOver s a events mem rest

/-- A waiting SET_OUTPUT gets its latch read answered `a` (R180): it waited for that frame, or for the direction read, which
came back 0x00 and was followed by it. -/
def LatchReadBack (s : State) (a : Answer) (events : List FrameEvent) (mem : Memory) (rest : List Input) : Prop :=
  Resumed s .fLat a events mem rest ∨
    ∃ rx events0 mem0 rest0, Resumed s .fDir (.ok rx) events0 mem0 rest0 ∧ rx.b2 = 0x00#8 ∧
      FrameBack s mem0 rest0 (encRead s.cmd.addr s.work.latReg) a mem rest ∧
      events = events0 ++ [⟨encRead s.cmd.addr s.work.latReg, a⟩]

/-- A waiting SET_OUTPUT gets its latch write of `new` answered `a` (R181, R182): it waited for that frame, or for an earlier one,
and `new` is the latch byte read with the one bit changed. -/
def LatchWriteBack (s : State) (new : Byte) (a : Answer) (events : List FrameEvent) (mem : Memory) (rest : List Input) :
    Prop :=
  (Resumed s .fWr a events mem rest ∧ new = s.work.new) ∨
    ∃ rx events0 mem0 rest0, LatchReadBack s (.ok rx) events0 mem0 rest0 ∧ new = applyBit rx.b2 s.work.bit s.cmd.d ∧
      FrameBack s mem0 rest0 (encWrite s.cmd.addr s.work.latReg new) a mem rest ∧
      events = events0 ++ [⟨encWrite s.cmd.addr s.work.latReg new, a⟩]

/-- A waiting SET_OUTPUT that wrote `new` gets its verification re-read answered `a` (R183). -/
def VerifyBack (s : State) (new : Byte) (a : Answer) (events : List FrameEvent) (mem : Memory) (rest : List Input) : Prop :=
  (Resumed s .fVrb a events mem rest ∧ new = s.work.new) ∨
    (s.params.verifyReadback = true ∧ ∃ rx events0 mem0 rest0, LatchWriteBack s new (.ok rx) events0 mem0 rest0 ∧
      FrameBack s mem0 rest0 (encRead s.cmd.addr s.work.latReg) a mem rest ∧
      events = events0 ++ [⟨encRead s.cmd.addr s.work.latReg, a⟩])

/-- The end of a run (R257): every word accepted, and BUSY back to 0. -/
def runEnded (s : State) : Bool := s.port.isEmpty && !s.rsp.busy

end Sys2Proof.Machine
end

