-- ==== Sys2Proof/Certificates/Slice0/Obligations.lean ====
section
/-! DEFINITION. The statements for the provers. Each says in its docstring which rules of spec/ it formalises. -/

open Sys2Proof Sys2Proof.Machine

/-! ## Encoding (30_encoding.md) -/

/-- R92, R96, R97: decoding the encoding of any well-formed instruction gives it back, every operand at every value. -/
def Obligations.DecodeOfEncode : Prop :=
  ∀ i : Instr, i.wellFormed = true → decode (encode i) = .ok i

/-- R92, R96, R97: whatever decodes to an instruction is that instruction's encoding, and the instruction is well-formed; so no
bit of a pattern is dropped and no two patterns mean the same. -/
def Obligations.EncodeOfDecode : Prop :=
  ∀ (e : Encoded) (i : Instr), decode e = .ok i → encode i = e ∧ i.wellFormed = true

/-- R92: a word selects at most one row of the command table, and it is a command exactly when it selects one, that command's
own row. -/
def Obligations.CommandWordsSelectOneRow : Prop :=
  ∀ w : CmdWord,
    (commandRows.filter (fun r => r.selects w)).length ≤ 1 ∧
      ∀ r ∈ commandRows, r.selects w = true ↔ ∃ i, decodeCommand w = .ok i ∧ i.row = r

/-- R93, its list of cases: a word is illegal exactly when OP = 0b11, or RSV ≠ 0, or ADDR[0] = 1, or OP = REG_READ with
bits 7:0 ≠ 0, or OP = SET_OUTPUT with bits 7:1 ≠ 0. -/
def Obligations.IllegalWordsAreTheListedOnes : Prop :=
  ∀ w : CmdWord,
    (∀ i, decodeCommand w ≠ .ok i) ↔
      (w.extractLsb' 30 2 = 3#2 ∨ w.extractLsb' 24 6 ≠ 0#6 ∨ w.getLsbD 16 = true ∨
        (w.extractLsb' 30 2 = 1#2 ∧ w.extractLsb' 0 8 ≠ 0#8) ∨ (w.extractLsb' 30 2 = 2#2 ∧ w.extractLsb' 1 7 ≠ 0#7))

/-- R91: the operands of a decoded command are the word's fields, as they stand. -/
def Obligations.OperandsAreTheFields : Prop :=
  ∀ w : CmdWord,
    (∀ a r v, decodeCommand w = .ok (.regWrite a r v) →
      a = w.extractLsb' 16 8 ∧ r = w.extractLsb' 8 8 ∧ v = w.extractLsb' 0 8) ∧
    (∀ a r, decodeCommand w = .ok (.regRead a r) → a = w.extractLsb' 16 8 ∧ r = w.extractLsb' 8 8) ∧
    (∀ a p d, decodeCommand w = .ok (.setOutput a p d) →
      a = w.extractLsb' 16 8 ∧ p = w.extractLsb' 8 8 ∧ d = w.getLsbD 0)

/-- V2.3 and R96, R97 with their examples: words written out from the spec's patterns decode to what they stand for. -/
def Obligations.WrittenOutWordsDecode : Prop :=
  decodeCommand 0b00000000010000000001010000001000#32 = .ok (.regWrite 0x40#8 0x14#8 0x08#8) ∧
    decodeCommand 0b01000000010000000001010000000000#32 = .ok (.regRead 0x40#8 0x14#8) ∧
    decodeCommand 0b10000000010000000000001100000001#32 = .ok (.setOutput 0x40#8 3#8 true) ∧
    decodeFrame 0b010000000001010000001000#24 = .ok (.writeFrame 0x40#8 0x14#8 0x08#8) ∧
    decodeFrame 0b010000010001010011011011#24 = .ok (.readFrame 0x40#8 0x14#8)

/-! ## Register map, codec and RSP (40_register_map.md, 41_codec.md, 10_state.md) -/

/-- R128: pins 0-7 are half A, pins 8-15 half B, the bit is the pin mod 8, and every pin above 15 is Invalid. -/
def Obligations.PinDecodeByHalves : Prop :=
  ∀ p : Byte,
    (15 < p.toNat → pinDecode p = none) ∧
    (p.toNat ≤ 7 → pinDecode p = some (.A, BitVec.ofNat 3 (p.toNat % 8))) ∧
    (8 ≤ p.toNat → p.toNat ≤ 15 → pinDecode p = some (.B, BitVec.ofNat 3 (p.toNat % 8))) ∧
    (p.toNat ≤ 15 → pinDecode p = some (if p.getLsbD 3 then .B else .A, p.extractLsb' 0 3))

/-- R133: the four laws of ApplyBit. -/
def Obligations.ApplyBitChangesOneBit : Prop :=
  ∀ (prev : Byte) (bit : BitVec 3) (d : Bool),
    (applyBit prev bit d).getLsbD bit.toNat = d ∧
    (∀ j, j ≠ bit.toNat → (applyBit prev bit d).getLsbD j = prev.getLsbD j) ∧
    applyBit (applyBit prev bit d) bit d = applyBit prev bit d ∧
    (applyBit (applyBit prev bit true) bit false = prev ↔ prev.getLsbD bit.toNat = false)

/-- R151, R152, R154: the encoders and the read decoder, with the fixed dummy byte and the corner case of an even address. -/
def Obligations.CodecBuildsAndReadsFrames : Prop :=
  ∀ (a r v : Byte) (rx : Bytes3),
    encWrite a r v = ⟨a &&& 0xFE#8, r, v⟩ ∧ encRead a r = ⟨a ||| 0x01#8, r, 0xDB#8⟩ ∧ decRead rx = rx.b2 ∧
      (a.getLsbD 0 = false → a &&& 0xFE#8 = a)

/-- R53, R161: bit k of the wire order of a frame: byte 0 first, and in each byte bit 7 first. -/
def Obligations.WireOrderIsMsbFirst : Prop :=
  ∀ (b : Bytes3) (j : Nat), j < 8 →
    wireBit b j = b.b0.getLsbD (7 - j) ∧ wireBit b (8 + j) = b.b1.getLsbD (7 - j) ∧ wireBit b (16 + j) = b.b2.getLsbD (7 - j)

/-- R27, R32: where each field of RSP stands in the word the host reads, and that the reserved bits read 0. -/
def Obligations.RspWordLayout : Prop :=
  ∀ r : Rsp,
    r.word.getLsbD 31 = r.busy ∧ r.word.getLsbD 30 = r.rvalid ∧ r.word.getLsbD 29 = r.vvalid ∧
      r.word.extractLsb' 27 2 = 0#2 ∧ r.word.extractLsb' 24 3 = codeBits r.code ∧ r.word.extractLsb' 20 4 = 0#4 ∧
      r.word.extractLsb' 16 4 = r.nfr ∧ r.word.extractLsb' 8 8 = r.vdata ∧ r.word.extractLsb' 0 8 = r.rdata

/-! ## The step and the port (42_chip_driver.md R170, 10_state.md R28) -/

/-- R170: with BUSY = 0 and no reset next, a step takes the port's next word, and if it is a command runs it: `step` is `exec` of
the decoded instruction on the state without that word. -/
def Obligations.StepRunsThePortsCommand : Prop :=
  ∀ (s : State) (w : CmdWord) (ws : List CmdWord) (i : Instr),
    s.rsp.busy = false → noResetNext s.inputs = true → s.port = w :: ws → decodeCommand w = .ok i →
      step s = exec i { s with port := ws }

/-- R99, R173-R175 (the model's reading of the frames as instructions, entry 9): with a command in progress whose frame is due,
a step is `exec` of that frame. -/
def Obligations.StepRunsTheDueFrame : Prop :=
  ∀ s : State, s.rsp.busy = true → noResetNext s.inputs = true → s.frameDue = true → step s = exec (dueFrame s) s

/-- Entry 2: an instruction of either format that is placed by `withFetchWord` is the one the next step runs. -/
def Obligations.PlacedInstructionRuns : Prop :=
  ∀ (s : State) (nbits w : Nat) (i : Instr),
    decodeTableWord nbits w = some i →
      step (s.withFetchWord nbits w) =
        exec i (if nbits = 32 then { s.withFetchWord nbits w with port := s.port } else s.withFetchWord nbits w)

/-- R28: the port accepts a word exactly when BUSY = 0: a busy block leaves the host's words alone, and an idle one with no
reset next (entry 1) takes the first. -/
def Obligations.PortAcceptsExactlyWhenIdle : Prop :=
  ∀ s t : State, step s = .next t →
    (s.rsp.busy = true → t.port = s.port) ∧
      (s.rsp.busy = false → noResetNext s.inputs = true → t.port = s.port.tail)

/-- R170, R250 (the model's reading, entry 10): a command offered while BUSY = 1 has no effect whatever. -/
def Obligations.BusyBlockIgnoresCommands : Prop :=
  ∀ (s : State) (i : Instr), s.rsp.busy = true → isCommand i = true → exec i s = .next s

/-- R186: an illegal word is accepted, sends no frame, changes no C.* or W.*, and finishes at once with RSP = 0x04000000. -/
def Obligations.IllegalWordFinishesAtOnce : Prop :=
  ∀ (s : State) (w : CmdWord) (ws : List CmdWord),
    s.rsp.busy = false → noResetNext s.inputs = true → s.port = w :: ws → (∀ i, decodeCommand w ≠ .ok i) →
      ∃ t, step s = .next t ∧ t.rsp.word = 0x04000000#32 ∧ t.ph = .idle ∧ t.port = ws ∧ t.trace = s.trace ∧
        t.cmd = s.cmd ∧ t.work = s.work ∧ t.tx = s.tx ∧ t.csN = s.csN ∧ t.inputs = s.inputs ∧ t.mem = s.mem ∧
        t.params = s.params

/-! ## Frames (41_codec.md R155-R160) -/

/-- R156, R151 (a frame as an instruction is the model's choice, entry 9): WRITE_FRAME completes when the
transport answers and the settle time passes; nothing else in the state changes. (After
`Err` R24 gives RX no value; that `FrameSent` keeps its old bits is the model's choice, entry 4.) -/
def Obligations.WriteFrameCompletes : Prop :=
  ∀ (s : State) (a r v : Byte) (i : Input) (ans : Answer) (mem : Memory) (n : Nat) (rest : List Input),
    s.csN = true → s.settled = true → SettlesIn s n → s.inputs = i :: .elapse n :: rest →
    Replies s s.mem (encWrite a r v) i ans mem →
      ∃ t, exec (.writeFrame a r v) s = .next t ∧ FrameSent s t (encWrite a r v) ans mem n rest

/-- R156, R152 (a frame as an instruction is the model's choice, entry 9): READ_FRAME completes when the
transport answers and the settle time passes; nothing else in the state changes. (After
`Err` R24 gives RX no value; that `FrameSent` keeps its old bits is the model's choice, entry 4.) -/
def Obligations.ReadFrameCompletes : Prop :=
  ∀ (s : State) (a r : Byte) (i : Input) (ans : Answer) (mem : Memory) (n : Nat) (rest : List Input),
    s.csN = true → s.settled = true → SettlesIn s n → s.inputs = i :: .elapse n :: rest →
    Replies s s.mem (encRead a r) i ans mem →
      ∃ t, exec (.readFrame a r) s = .next t ∧ FrameSent s t (encRead a r) ans mem n rest

/-- R156, R25: a frame that the transport has not answered is with the transport: TX holds the request, CS_N is 0, the frame is
counted, and nothing else changes. -/
def Obligations.UnansweredFrameWaitsInXfer : Prop :=
  ∀ (s : State) (a r v : Byte), s.csN = true → s.settled = true → s.inputs = [] →
    exec (.writeFrame a r v) s =
        .next { s with tx := encWrite a r v, csN := false, sub := .xfer, nFrames := s.nFrames + 1#3 } ∧
      exec (.readFrame a r) s =
        .next { s with tx := encRead a r, csN := false, sub := .xfer, nFrames := s.nFrames + 1#3 }

/-- R26, R157: while the settle time since CS_N last rose has not elapsed, no frame starts, whatever arrives. First clause, a request
frame: only ST runs on and the inputs are used up. Second, a command: CS_N, TX and the trace stay. Third, a step of a command in
progress that waits between two of its frames, or before its first: as the first clause. (That a frame sent within a step, or still
with the transport after it, had waited too is `SettledInXfer` of `BlockInv`, which StepKeepsBlockInv states of every step. ST as a
natural number that the inputs advance is the model's reading: entry 6.) -/
def Obligations.NoFrameStartsBeforeSettle : Prop :=
  (∀ (s : State) (a r v : Byte) (u : Nat),
    s.csN = true → s.st = .since u → (∀ i ∈ s.inputs, isReset i = false) → u + timeIn s.inputs < s.params.tSettle →
      exec (.writeFrame a r v) s = .next { s with st := .since (u + timeIn s.inputs), inputs := [] } ∧
        exec (.readFrame a r) s = .next { s with st := .since (u + timeIn s.inputs), inputs := [] }) ∧
  (∀ (s : State) (c : Instr) (u : Nat), isCommand c = true →
    s.csN = true → s.st = .since u → (∀ i ∈ s.inputs, isReset i = false) → u + timeIn s.inputs < s.params.tSettle →
      ∃ t, exec c s = .next t ∧ t.csN = true ∧ t.tx = s.tx ∧ t.trace = s.trace) ∧
  (∀ (s : State) (u : Nat), BlockInv s → s.rsp.busy = true → s.sub = .settle →
    s.st = .since u → (∀ i ∈ s.inputs, isReset i = false) → u + timeIn s.inputs < s.params.tSettle →
      step s = .next { s with st := .since (u + timeIn s.inputs), inputs := [] })

/-- R5, R57 (the model's reading, entry 10): while a frame is on the bus no other begins. -/
def Obligations.NoFrameBeginsDuringAnother : Prop :=
  ∀ (s : State) (a r v : Byte), s.csN = false →
    exec (.writeFrame a r v) s = .next s ∧ exec (.readFrame a r) s = .next s

/-- R160, R220: a frame that is never answered leaves the block in XFER with CS_N = 0 and BUSY = 1 for ever, whatever time
passes and whatever late answers come; only a reset ends it. -/
def Obligations.HungFrameStaysForEver : Prop :=
  ∀ s : State, s.rsp.busy = true → s.ph ≠ .idle → s.sub = .xfer → s.csN = false →
    ((∀ i ∈ s.inputs, isQuiet i = true) →
      ∀ k, ∃ t, Sys2Proof.core.run k s = .next t ∧ t.sub = .xfer ∧ t.csN = false ∧ t.rsp = s.rsp ∧ t.ph = s.ph ∧
        t.trace = s.trace) ∧
    (∀ draws rest, s.inputs = .reset draws :: rest →
      ∃ t, step s = .next t ∧ t.rsp.word = 0x07000000#32 ∧ t.ph = .idle ∧ t.csN = true)

/-! ## REG_WRITE and REG_READ (42_chip_driver.md R173, R174) -/

/-- R173: REG_WRITE sends its one write frame and finishes OK with RSP = 0x00010000, or ERR_TRANSPORT with RSP = 0x01010000:
within the accepting step, and (second clause) when it had to wait for its frame. -/
def Obligations.RegWriteCompletes : Prop :=
  (∀ (s : State) (a r v : Byte) (i : Input) (ans : Answer) (mem : Memory) (n : Nat) (rest : List Input),
    Ready s → SettlesIn s n → s.inputs = i :: .elapse n :: rest → Replies s s.mem (encWrite a r v) i ans mem →
      ∃ t, exec (.regWrite a r v) s = .next t ∧
        CommandFinished s t (if ans = .err then .errTransport else .ok) none none [⟨encWrite a r v, ans⟩] mem rest ∧
        t.rsp.word = (if ans = .err then 0x01010000#32 else 0x00010000#32) ∧
        t.cmd.op = 0#2 ∧ t.cmd.addr = a ∧ t.cmd.reg = r ∧ t.cmd.val = v) ∧
  (∀ (s : State) (ans : Answer) (events : List FrameEvent) (mem : Memory) (rest : List Input),
    Resumed s .fOne ans events mem rest → s.cmd.op = 0#2 →
      ∃ t, step s = .next t ∧
        CommandEnded s t (if ans = .err then .errTransport else .ok) none none 1 events mem rest ∧
        t.rsp.word = (if ans = .err then 0x01010000#32 else 0x00010000#32) ∧
        s.tx = encWrite s.cmd.addr s.cmd.reg s.cmd.val)

/-- R174: REG_READ sends its one read frame and finishes OK with the third response byte in RDATA, or ERR_TRANSPORT: within the
accepting step, and (second clause) when it had to wait for its frame. -/
def Obligations.RegReadCompletes : Prop :=
  (∀ (s : State) (a r : Byte) (i : Input) (ans : Answer) (mem : Memory) (n : Nat) (rest : List Input),
    Ready s → SettlesIn s n → s.inputs = i :: .elapse n :: rest → Replies s s.mem (encRead a r) i ans mem →
      ∃ t, exec (.regRead a r) s = .next t ∧
        CommandFinished s t (if ans = .err then .errTransport else .ok) (answerByte ans) none [⟨encRead a r, ans⟩] mem rest ∧
        t.rsp.word =
          (match ans with | .err => 0x01010000#32 | .ok rx => 0x40010000#32 ||| rx.b2.setWidth 32) ∧
        t.cmd.op = 1#2 ∧ t.cmd.addr = a ∧ t.cmd.reg = r) ∧
  (∀ (s : State) (ans : Answer) (events : List FrameEvent) (mem : Memory) (rest : List Input),
    Resumed s .fOne ans events mem rest → s.cmd.op = 1#2 →
      ∃ t, step s = .next t ∧
        CommandEnded s t (if ans = .err then .errTransport else .ok) (answerByte ans) none 1 events mem rest ∧
        t.rsp.word =
          (match ans with | .err => 0x01010000#32 | .ok rx => 0x40010000#32 ||| rx.b2.setWidth 32) ∧
        s.tx = encRead s.cmd.addr s.cmd.reg)

/-! ## SET_OUTPUT (42_chip_driver.md R175-R185) -/

/-- R176, R213: a pin above 15 finishes with ERR_INVALID_PARAM, RSP = 0x02000000, before any frame; it needs no transport. -/
def Obligations.SetOutputRejectsPin : Prop :=
  ∀ (s : State) (a p : Byte) (d : Bool), s.rsp.busy = false → 15 < p.toNat →
    ∃ t, exec (.setOutput a p d) s = .next t ∧ t.rsp.word = 0x02000000#32 ∧ t.ph = .idle ∧ t.trace = s.trace ∧
      t.inputs = s.inputs ∧ t.tx = s.tx ∧ t.csN = s.csN ∧ t.st = s.st ∧ t.work = s.work ∧ t.mem = s.mem ∧
      t.port = s.port ∧ t.params = s.params

/-- R178, R214 and row 2 of R185: the direction read answered `Err` ends the command with ERR_TRANSPORT; a direction byte that is
not 0x00 ends it with ERR_CONFIG_MISMATCH and the byte in RDATA. Either way that read is the only frame.
Second clause: the same when the command had to wait for that frame. -/
def Obligations.SetOutputStopsAtTheGuard : Prop :=
  (∀ (s : State) (a p : Byte) (d : Bool) (h : Half) (bit : BitVec 3) (i : Input) (ans : Answer) (mem : Memory) (n : Nat)
    (rest : List Input),
    Ready s → SettlesIn s n → pinDecode p = some (h, bit) → s.inputs = i :: .elapse n :: rest →
    Replies s s.mem (encRead a (halfRegs s.params.regMap h).1) i ans mem → answerByte ans ≠ some 0x00#8 →
      ∃ t, exec (.setOutput a p d) s = .next t ∧
        CommandFinished s t (if ans = .err then .errTransport else .errConfigMismatch) (answerByte ans) none
          [⟨encRead a (halfRegs s.params.regMap h).1, ans⟩] mem rest) ∧
  (∀ (s : State) (ans : Answer) (events : List FrameEvent) (mem : Memory) (rest : List Input),
    Resumed s .fDir ans events mem rest → answerByte ans ≠ some 0x00#8 →
      ∃ t, step s = .next t ∧
        CommandEnded s t (if ans = .err then .errTransport else .errConfigMismatch) (answerByte ans) none 1 events mem rest)

/-- R180 and row 4 of R185: the latch read answered `Err` ends the command with ERR_TRANSPORT after two frames, no write sent.
Second clause: the same when the command had to wait for that frame or the one before it. -/
def Obligations.SetOutputStopsAtTheLatchRead : Prop :=
  (∀ (s : State) (a p : Byte) (d : Bool) (h : Half) (bit : BitVec 3) (i1 i2 : Input) (rx1 : Bytes3) (m1 m2 : Memory)
    (n1 n2 : Nat) (rest : List Input),
    Ready s → SettlesIn s n1 → SettlesIn s n2 → pinDecode p = some (h, bit) →
    s.inputs = i1 :: .elapse n1 :: i2 :: .elapse n2 :: rest →
    Replies s s.mem (encRead a (halfRegs s.params.regMap h).1) i1 (.ok rx1) m1 → rx1.b2 = 0x00#8 →
    Replies s m1 (encRead a (halfRegs s.params.regMap h).2) i2 .err m2 →
      ∃ t, exec (.setOutput a p d) s = .next t ∧
        CommandFinished s t .errTransport none none
          [⟨encRead a (halfRegs s.params.regMap h).1, .ok rx1⟩, ⟨encRead a (halfRegs s.params.regMap h).2, .err⟩] m2 rest) ∧
  (∀ (s : State) (events : List FrameEvent) (mem : Memory) (rest : List Input), LatchReadBack s .err events mem rest →
      ∃ t, step s = .next t ∧ CommandEnded s t .errTransport none none 2 events mem rest)

/-- R181, R182 and rows 5 and 6 of R185: past the guard, the byte written is the latch byte just read with the one bit set or
cleared. If that write is answered `Err` the command ends with ERR_TRANSPORT; with VERIFY_READBACK false, an `Ok` ends it OK with
the new byte in RDATA. Three frames either way. Second clause: the same when the command had to wait for one of
them. -/
def Obligations.SetOutputWritesTheLatch : Prop :=
  (∀ (s : State) (a p : Byte) (d : Bool) (h : Half) (bit : BitVec 3) (i1 i2 i3 : Input) (rx1 rx2 : Bytes3) (ans : Answer)
    (m1 m2 m3 : Memory) (n1 n2 n3 : Nat) (rest : List Input),
    Ready s → SettlesIn s n1 → SettlesIn s n2 → SettlesIn s n3 → pinDecode p = some (h, bit) →
    s.inputs = i1 :: .elapse n1 :: i2 :: .elapse n2 :: i3 :: .elapse n3 :: rest →
    Replies s s.mem (encRead a (halfRegs s.params.regMap h).1) i1 (.ok rx1) m1 → rx1.b2 = 0x00#8 →
    Replies s m1 (encRead a (halfRegs s.params.regMap h).2) i2 (.ok rx2) m2 →
    Replies s m2 (encWrite a (halfRegs s.params.regMap h).2 (applyBit rx2.b2 bit d)) i3 ans m3 →
    (ans = .err ∨ s.params.verifyReadback = false) →
      ∃ t, exec (.setOutput a p d) s = .next t ∧
        CommandFinished s t (if ans = .err then .errTransport else .ok)
          (if ans = .err then none else some (applyBit rx2.b2 bit d)) none
          [⟨encRead a (halfRegs s.params.regMap h).1, .ok rx1⟩, ⟨encRead a (halfRegs s.params.regMap h).2, .ok rx2⟩,
            ⟨encWrite a (halfRegs s.params.regMap h).2 (applyBit rx2.b2 bit d), ans⟩] m3 rest) ∧
  (∀ (s : State) (new : Byte) (ans : Answer) (events : List FrameEvent) (mem : Memory) (rest : List Input),
    LatchWriteBack s new ans events mem rest → (ans = .err ∨ s.params.verifyReadback = false) →
      ∃ t, step s = .next t ∧
        CommandEnded s t (if ans = .err then .errTransport else .ok) (if ans = .err then none else some new) none 3 events
          mem rest)

/-- R183 and rows 7 and 8 of R185: with VERIFY_READBACK true a successful command reads the latch once more; the byte is in VDATA
if the read is answered `Ok`, whatever it is, and the command finishes OK whether it is or not. Second clause: the same
when the command had to wait for one of its four frames. -/
def Obligations.SetOutputVerifies : Prop :=
  (∀ (s : State) (a p : Byte) (d : Bool) (h : Half) (bit : BitVec 3) (i1 i2 i3 i4 : Input) (rx1 rx2 rx3 : Bytes3)
    (ans : Answer) (m1 m2 m3 m4 : Memory) (n1 n2 n3 n4 : Nat) (rest : List Input),
    Ready s → SettlesIn s n1 → SettlesIn s n2 → SettlesIn s n3 → SettlesIn s n4 → pinDecode p = some (h, bit) →
    s.params.verifyReadback = true →
    s.inputs = i1 :: .elapse n1 :: i2 :: .elapse n2 :: i3 :: .elapse n3 :: i4 :: .elapse n4 :: rest →
    Replies s s.mem (encRead a (halfRegs s.params.regMap h).1) i1 (.ok rx1) m1 → rx1.b2 = 0x00#8 →
    Replies s m1 (encRead a (halfRegs s.params.regMap h).2) i2 (.ok rx2) m2 →
    Replies s m2 (encWrite a (halfRegs s.params.regMap h).2 (applyBit rx2.b2 bit d)) i3 (.ok rx3) m3 →
    Replies s m3 (encRead a (halfRegs s.params.regMap h).2) i4 ans m4 →
      ∃ t, exec (.setOutput a p d) s = .next t ∧
        CommandFinished s t .ok (some (applyBit rx2.b2 bit d)) (answerByte ans)
          [⟨encRead a (halfRegs s.params.regMap h).1, .ok rx1⟩, ⟨encRead a (halfRegs s.params.regMap h).2, .ok rx2⟩,
            ⟨encWrite a (halfRegs s.params.regMap h).2 (applyBit rx2.b2 bit d), .ok rx3⟩,
            ⟨encRead a (halfRegs s.params.regMap h).2, ans⟩] m4 rest) ∧
  (∀ (s : State) (new : Byte) (ans : Answer) (events : List FrameEvent) (mem : Memory) (rest : List Input),
    VerifyBack s new ans events mem rest →
      ∃ t, step s = .next t ∧ CommandEnded s t .ok (some new) (answerByte ans) 4 events mem rest)

/-- R178, R180, R184, R185: whatever the world does, a SET_OUTPUT sends at most four frames; the only write among them is the
third, to the half's latch; and before it come the direction read answered 0x00 and the latch read whose byte it writes back with
the one bit changed. First clause: the accepting step. Second: every later step of a SET_OUTPUT in progress, each write frame it
adds to the trace standing there right behind those two reads. -/
def Obligations.SetOutputNeverWritesUnguarded : Prop :=
  (∀ (s t : State) (a p : Byte) (d : Bool), exec (.setOutput a p d) s = .next t →
    ∃ events, t.trace = s.trace ++ events ∧ events.length ≤ 4 ∧
      ∀ k e, events[k]? = some e → isWriteRequest e.tx = true →
        k = 2 ∧ ∃ h bit rx1 rx2, pinDecode p = some (h, bit) ∧ rx1.b2 = 0x00#8 ∧
          events[0]? = some ⟨encRead a (halfRegs s.params.regMap h).1, .ok rx1⟩ ∧
          events[1]? = some ⟨encRead a (halfRegs s.params.regMap h).2, .ok rx2⟩ ∧
          e.tx = encWrite a (halfRegs s.params.regMap h).2 (applyBit rx2.b2 bit d)) ∧
  (∀ s t : State, BlockInv s → GuardTrace s → s.rsp.busy = true → s.cmd.op = 2#2 → step s = .next t →
    ∃ events, t.trace = s.trace ++ events ∧ events.length ≤ 4 ∧
      ∀ k e, s.trace.length ≤ k → t.trace[k]? = some e → isWriteRequest e.tx = true →
        2 ≤ k ∧ ∃ h bit rx1 rx2, pinDecode s.cmd.pin = some (h, bit) ∧ rx1.b2 = 0x00#8 ∧
          t.trace[k - 2]? = some ⟨encRead s.cmd.addr (halfRegs s.params.regMap h).1, .ok rx1⟩ ∧
          t.trace[k - 1]? = some ⟨encRead s.cmd.addr (halfRegs s.params.regMap h).2, .ok rx2⟩ ∧
          e.tx = encWrite s.cmd.addr (halfRegs s.params.regMap h).2 (applyBit rx2.b2 bit s.cmd.d))

/-! ## What instructions leave unchanged -/

/-- The frame of REG_WRITE: W.*, C.PIN, C.D, the parameters, the host's words and every byte of device memory but the register
that offset `r` addresses in the devices its frame selects (R124; entry 26 where BANK is 1) are unchanged; and while BUSY is 1
every other field of RSP is the previous command's (R27). (R22 and R23 give the unused C.* and W.* no value; that they keep their
bits is the model's choice, entry 4.) -/
def Obligations.RegWriteFrame : Prop :=
  ∀ (s t : State) (a r v : Byte), exec (.regWrite a r v) s = .next t →
    t.work = s.work ∧ t.cmd.pin = s.cmd.pin ∧ t.cmd.d = s.cmd.d ∧ t.params = s.params ∧ t.port = s.port ∧
      t.present = s.present ∧ (t.rsp.busy = true → t.rsp = { s.rsp with busy := true }) ∧
      (Memory.wf s.mem = true → ∀ b : Nat,
        (∀ hw ∈ selectedDevices s.params s.present s.mem (encWrite a r v).b0, b ≠ deviceAddr hw (addressed s.mem hw r)) →
          Memory.read t.mem b = Memory.read s.mem b)

/-- The frame of REG_READ: as REG_WRITE's, with C.VAL and all of device memory unchanged (R58). (R22 and R23 give the
unused C.* and W.* no value; that they keep their bits is the model's choice, entry 4.) -/
def Obligations.RegReadFrame : Prop :=
  ∀ (s t : State) (a r : Byte), exec (.regRead a r) s = .next t →
    t.work = s.work ∧ t.cmd.pin = s.cmd.pin ∧ t.cmd.d = s.cmd.d ∧ t.cmd.val = s.cmd.val ∧ t.params = s.params ∧
      t.port = s.port ∧ t.present = s.present ∧ (t.rsp.busy = true → t.rsp = { s.rsp with busy := true }) ∧
      (∀ b : Nat, Memory.read t.mem b = Memory.read s.mem b)

/-- The frame of SET_OUTPUT: C.REG, C.VAL, the parameters and the host's words are unchanged, while BUSY is 1 every other field of
RSP is the previous command's, and every byte of device memory is unchanged but the register that the half's latch offset
addresses in the devices the write frame selects (R184; R124, entry 26 where BANK is 1); for a pin above 15 all of it is. (R22 and
R23 give the unused C.*, and W.* before they are written, no value; that they keep their bits is the model's choice, entry 4.) -/
def Obligations.SetOutputFrame : Prop :=
  ∀ (s t : State) (a p : Byte) (d : Bool), exec (.setOutput a p d) s = .next t →
    t.cmd.reg = s.cmd.reg ∧ t.cmd.val = s.cmd.val ∧ t.params = s.params ∧ t.port = s.port ∧ t.present = s.present ∧
      (t.rsp.busy = true → t.rsp = { s.rsp with busy := true }) ∧
      (pinDecode p = none → t.work = s.work ∧ ∀ b : Nat, Memory.read t.mem b = Memory.read s.mem b) ∧
      (Memory.wf s.mem = true → ∀ (h : Half) (bit : BitVec 3), pinDecode p = some (h, bit) → ∀ b : Nat,
        (∀ hw ∈ selectedDevices s.params s.present s.mem (encWrite a (halfRegs s.params.regMap h).2 0x00#8).b0,
          b ≠ deviceAddr hw (addressed s.mem hw (halfRegs s.params.regMap h).2)) → Memory.read t.mem b = Memory.read s.mem b)

/-- The frame of the two request frames: RSP, PH, C.*, W.*, the parameters and the host's words are unchanged; a read frame
changes no device register, a write frame only the register that offset `r` addresses in the devices it selects (R124;
entry 26 where BANK is 1). (For the
registers to which R22 and R23 give no value this is the model's choice, entry 4.) -/
def Obligations.RequestFramesFrame : Prop :=
  ∀ (s t : State) (a r v : Byte),
    (exec (.writeFrame a r v) s = .next t →
      t.rsp = s.rsp ∧ t.ph = s.ph ∧ t.cmd = s.cmd ∧ t.work = s.work ∧ t.params = s.params ∧ t.port = s.port ∧
        t.present = s.present ∧
        (Memory.wf s.mem = true → ∀ b : Nat,
          (∀ hw ∈ selectedDevices s.params s.present s.mem (encWrite a r v).b0, b ≠ deviceAddr hw (addressed s.mem hw r)) →
            Memory.read t.mem b = Memory.read s.mem b)) ∧
    (exec (.readFrame a r) s = .next t →
      t.rsp = s.rsp ∧ t.ph = s.ph ∧ t.cmd = s.cmd ∧ t.work = s.work ∧ t.params = s.params ∧ t.port = s.port ∧
        t.present = s.present ∧ ∀ b : Nat, Memory.read t.mem b = Memory.read s.mem b)

/-! ## Reset (70_reset_and_hazards.md R240-R242) -/

/-- R37, the values it gives, of the state after power-on; the registers it gives none for are not spoken of. -/
def Obligations.ResetValues : Prop :=
  State.reset.ph = .idle ∧ State.reset.csN = true ∧ State.reset.settled = true ∧ State.reset.rsp.word = 0x07000000#32 ∧
    State.reset.rxHeld = false ∧ State.reset.trace = [] ∧ ∀ b : Nat,
      Memory.read State.reset.mem b = if b % 256 = 0 ∨ b % 256 = 1 then 0xFF#8 else 0x00#8

/-- R240-R242, U5: a reset at any time leaves PH = IDLE, CS_N = 1, no settle owed, RSP = 0x07000000 and the port ready, sends no
frame and records none; with no frame in progress it changes no device register. A frame it cuts short changes no register but the
addressed one of the devices it selects, which may be left with any bytes, each with its own. (Which register that is where BANK is
1 the spec leaves open, and it is a free value: entry 26. The draws are the model's: entry 16.) -/
def Obligations.ResetAbandonsTheCommand : Prop :=
  ∀ (s : State) (draws : List CutDraw) (rest : List Input), s.inputs = .reset draws :: rest →
    ∃ t, step s = .next t ∧ t.ph = .idle ∧ Ready t ∧ t.rsp.word = 0x07000000#32 ∧ t.trace = s.trace ∧ t.inputs = rest ∧
      t.port = s.port ∧ t.params = s.params ∧ t.present = s.present ∧ (s.csN = true → t.mem = s.mem) ∧
      (s.csN = false → Memory.wf s.mem = true →
        (∀ b : Nat, (∀ hw ∈ selectedDevices s.params s.present s.mem s.tx.b0,
            b ≠ deviceAddr hw (addressed s.mem hw s.tx.b1)) → Memory.read t.mem b = Memory.read s.mem b) ∧
          ((draws.map CutDraw.hw).Nodup →
            ∀ d ∈ draws, d.hw.toNat ∈ selectedDevices s.params s.present s.mem s.tx.b0 →
              addressed s.mem d.hw.toNat s.tx.b1 ≤ 0x15#8 →
                Memory.read t.mem (deviceAddr d.hw.toNat (addressed s.mem d.hw.toNat s.tx.b1)) = d.v))

/-! ## Invariants of every step -/

/-- R20-R32, R177, R178, R180, R181, R183, R70: the three invariants below hold after reset. -/
def Obligations.ResetHasTheInvariants : Prop :=
  BlockInv State.reset ∧ GuardTrace State.reset ∧ Memory.wf State.reset.mem = true

/-- R20-R32, R157, R177, R178, R181, R183: every step keeps `BlockInv`: BUSY, CS_N, the settle timer (owed neither while a frame is
with the transport nor in IDLE), n_frames, PH with C.OP and W.*, TX and RSP agree as the rules say. -/
def Obligations.StepKeepsBlockInv : Prop :=
  ∀ s t : State, BlockInv s → step s = .next t → BlockInv t

/-- R178, R180: every step keeps it that, whenever a SET_OUTPUT's latch write is with the transport, the last two frames are the
direction read answered 0x00 and the latch read answered W.PREV. -/
def Obligations.StepKeepsGuardTrace : Prop :=
  ∀ s t : State, BlockInv s → GuardTrace s → step s = .next t → GuardTrace t

/-- Every step keeps the devices' memory in canonical form (R70; entry 23). -/
def Obligations.StepKeepsMemoryCanonical : Prop :=
  ∀ s t : State, Memory.wf s.mem = true → step s = .next t → Memory.wf t.mem = true

/-- From a state that satisfies `BlockInv` no step faults: the one fault of the model is for states no run reaches (entry 18). -/
def Obligations.NoFaultUnderBlockInv : Prop :=
  ∀ (s : State) (f : Fault), BlockInv s → step s ≠ .fault f

/-- R66: the block's behaviour is defined for every answer of the transport: with no reference device answering, no step is
refused. -/
def Obligations.OracleRunsAreNeverRefused : Prop :=
  ∀ (s : State) (e : Refusal), (∀ i ∈ s.inputs, isDeviceInput i = false) → step s ≠ .refused e

/-- R38: no step changes a parameter of the instance, nor which devices are on the bus. -/
def Obligations.ParametersAreFixed : Prop :=
  ∀ s t : State, step s = .next t → t.params = s.params ∧ t.present = s.present

/-- R99: every frame that a step emits is a request of R96 or R97: if bit 0 of its first byte is 1, its third byte is DUMMY. The
frames that were answered are those the step adds to the trace, and a frame still with the transport (CS_N = 0), whether it will
hang or a reset will cut it short, is in TX. That a step adds at most four is R185 and the extent of the model's step (entry 8);
that it takes none away is R156 and the trace's place in the model (entry 19). -/
def Obligations.BlockEmitsOnlyItsTwoRequests : Prop :=
  ∀ s t : State, BlockInv s → step s = .next t →
    (∃ events, t.trace = s.trace ++ events ∧ events.length ≤ 4 ∧
      ∀ e ∈ events, e.tx.b0.getLsbD 0 = true → e.tx.b2 = 0xDB#8) ∧
    (t.csN = false → t.tx.b0.getLsbD 0 = true → t.tx.b2 = 0xDB#8)

/-- R27, R28: while BUSY is 1, every other field of RSP keeps the previous command's value: only `finish` and a reset write them,
and both leave BUSY 0. -/
def Obligations.RspStaysWhileBusy : Prop :=
  ∀ s t : State, step s = .next t → t.rsp.busy = true → t.rsp = { s.rsp with busy := true }

/-- R22: the latched command fields are constant until `finish`. -/
def Obligations.LatchedFieldsStay : Prop :=
  ∀ s t : State, s.rsp.busy = true → step s = .next t → t.ph = .idle ∨ t.cmd = s.cmd

/-- R21: within a command PH never moves backwards, and a single-frame command has no other phase; only `finish` and a reset
return it to IDLE. -/
def Obligations.PhaseNeverMovesBack : Prop :=
  ∀ s t : State, s.rsp.busy = true → step s = .next t →
    (t.ph = .idle ∧ t.rsp.busy = false) ∨ (s.ph.rank ≤ t.ph.rank ∧ (s.ph = .fOne → t.ph = .fOne))

/-! ## The reference devices (20_memory.md R70-R79) and whole operations -/

/-- R121, R129, R103: the default register map has the offsets of the table, and the halves' registers are its direction and
output-latch rows. -/
def Obligations.RegisterMapIsTheTable : Prop :=
  [RegName.iodirA, .iodirB, .ipolA, .ipolB, .gpintenA, .gpintenB, .defvalA, .defvalB, .intconA, .intconB, .iocon].map
      (regOffset regMapDefault) =
      [0x00#8, 0x01#8, 0x02#8, 0x03#8, 0x04#8, 0x05#8, 0x06#8, 0x07#8, 0x08#8, 0x09#8, 0x0A#8] ∧
    [RegName.gppuA, .gppuB, .intfA, .intfB, .intcapA, .intcapB, .gpioA, .gpioB, .olatA, .olatB].map
      (regOffset regMapDefault) = [0x0C#8, 0x0D#8, 0x0E#8, 0x0F#8, 0x10#8, 0x11#8, 0x12#8, 0x13#8, 0x14#8, 0x15#8] ∧
    regMapDefault.iocon2 = 0x0B#8 ∧ halfRegs regMapDefault .A = (0x00#8, 0x14#8) ∧
    halfRegs regMapDefault .B = (0x01#8, 0x15#8)

/-- R71: which devices a frame selects, of all with a hardware address and of those on the bus (R70). -/
def Obligations.SelectionByPinsAndHaen : Prop :=
  ∀ (p : Params) (m : Memory) (b : Byte) (hw : Nat), p.haenZero = .onlyZero → hw < 8 →
    (selectsDevice p m b hw = true ↔
      b.extractLsb' 4 4 = 0b0100#4 ∧
        (((deviceIocon m hw).getLsbD 3 = true ∧ (b.extractLsb' 1 3).toNat = hw) ∨
          ((deviceIocon m hw).getLsbD 3 = false ∧ b.extractLsb' 1 3 = 0b000#3))) ∧
      ∀ present : BitVec 8,
        (hw ∈ selectedDevices p present m b ↔ present.getLsbD hw = true ∧ selectsDevice p m b hw = true)

/-- R72, R73, R75: the answer of the reference devices. A write at an offset 0x00-0x0D, 0x14 or 0x15 (of IOCON with bit 7 = 0) is
answered `Ok`; at any other offset, or of IOCON with bit 7, it is refused, as R72 says, if it selects a device, and one that
selects none is answered and changes none (R75; that R75 holds there and not R72 is the model's reading: entry 13). A read is
always answered: of the one selected device, its register in the third byte if it is one of those, and any bytes otherwise; a read
changes no device. Last two clauses: a write leaves the byte in the register addressed of every selected device that has it, and
changes nothing else; an offset addresses the register of that offset where BANK is 0 (R124). (Where BANK is 1 the register is a
free value: entry 26.) -/
def Obligations.ReferenceDevicesAnswer : Prop :=
  (∀ (p : Params) (present : BitVec 8) (m : Memory) (tx fill : Bytes3),
    (tx.b0.getLsbD 0 = false → (tx.b1 ≤ 0x0D#8 ∨ tx.b1 = 0x14#8 ∨ tx.b1 = 0x15#8) →
      ((tx.b1 = 0x0A#8 ∨ tx.b1 = 0x0B#8) → tx.b2.getLsbD 7 = false) →
      deviceOk p present m tx fill =
        .answer (.ok fill) (writeDevices m (selectedDevices p present m tx.b0) tx.b1 tx.b2)) ∧
    (tx.b0.getLsbD 0 = false → selectedDevices p present m tx.b0 = [] →
      deviceOk p present m tx fill = .answer (.ok fill) m) ∧
    (tx.b0.getLsbD 0 = false → selectedDevices p present m tx.b0 ≠ [] →
      ((0x0E#8 ≤ tx.b1 ∧ tx.b1 ≤ 0x13#8) ∨ 0x16#8 ≤ tx.b1 ∨
        ((tx.b1 = 0x0A#8 ∨ tx.b1 = 0x0B#8) ∧ tx.b2.getLsbD 7 = true)) →
      deviceOk p present m tx fill = .outside) ∧
    (∀ hw, tx.b0.getLsbD 0 = true → selectedDevices p present m tx.b0 = [hw] →
      let r := addressed m hw tx.b1
      ((r ≤ 0x0D#8 ∨ r = 0x14#8 ∨ r = 0x15#8) →
        deviceOk p present m tx fill = .answer (.ok ⟨fill.b0, fill.b1, deviceRead m hw r⟩) m) ∧
      (((0x0E#8 ≤ r ∧ r ≤ 0x13#8) ∨ 0x16#8 ≤ r) → deviceOk p present m tx fill = .answer (.ok fill) m)) ∧
    (tx.b0.getLsbD 0 = true → (selectedDevices p present m tx.b0).length ≠ 1 →
      deviceOk p present m tx fill = .answer (.ok fill) m)) ∧
  (∀ (m : Memory) (hws : List Nat) (r v : Byte) (b : Nat), Memory.wf m = true →
    ((∃ hw ∈ hws, addressed m hw r ≤ 0x15#8 ∧ b = deviceAddr hw (addressed m hw r)) →
        Memory.read (writeDevices m hws r v) b = v) ∧
      ((∀ hw ∈ hws, addressed m hw r ≤ 0x15#8 → b ≠ deviceAddr hw (addressed m hw r)) →
        Memory.read (writeDevices m hws r v) b = Memory.read m b)) ∧
  (∀ (m : Memory) (hw : Nat) (r : Byte),
    ((deviceIocon m hw).getLsbD 7 = false → addressed m hw r = r) ∧
      ((deviceIocon m hw).getLsbD 7 = true → addressed m hw r = Config.bankedRegister r))

/-- R77: an errored frame that is not refused is answered `Err`, and leaves every device register as it was, or, for a write,
possibly with the value written in the register it addresses in a device it selects (R124; entry 26 where BANK is 1). -/
def Obligations.ErroredWriteAppliesOrNot : Prop :=
  ∀ (p : Params) (present : BitVec 8) (m m' : Memory) (tx : Bytes3) (applied : BitVec 8) (a : Answer),
    Memory.wf m = true → deviceErrReply p present m tx applied = .answer a m' →
      a = .err ∧ ∀ b : Nat, Memory.read m' b = Memory.read m b ∨
        (tx.b0.getLsbD 0 = false ∧ Memory.read m' b = tx.b2 ∧
          ∃ hw ∈ selectedDevices p present m tx.b0, b = deviceAddr hw (addressed m hw tx.b1))

/-- R245, on a bus where the address selects one device that is at its power-on values: SET_OUTPUT before CONFIGURE finishes with
ERR_CONFIG_MISMATCH and RDATA = 0xFF, and the device is as it was. (Where it selects several, R73 leaves the byte read open;
entry 25.) -/
def Obligations.SetOutputBeforeConfigureMismatches : Prop :=
  ∀ (s : State) (a p : Byte) (d : Bool) (h : Half) (bit : BitVec 3) (hw : Nat) (f : Bytes3) (n : Nat) (rest : List Input),
    Ready s → SettlesIn s n → s.params.regMap = regMapDefault → s.mem = [] → pinDecode p = some (h, bit) →
    selectedDevices s.params s.present s.mem (a ||| 0x01#8) = [hw] → s.inputs = .device f :: .elapse n :: rest →
      ∃ t, exec (.setOutput a p d) s = .next t ∧ t.rsp.word = 0x430100FF#32 ∧ t.mem = []

/-- R59: REG_WRITE of the same value to the same register of the same address, done twice, leaves the devices as once. -/
def Obligations.RegWriteTwiceIsOnce : Prop :=
  ∀ (s : State) (a r v : Byte) (f1 f2 : Bytes3) (n1 n2 : Nat) (rest : List Input),
    Ready s → SettlesIn s n1 → SettlesIn s n2 → Memory.wf s.mem = true →
    (r ≤ 0x0D#8 ∨ r = 0x14#8 ∨ r = 0x15#8) → r ≠ 0x0A#8 → r ≠ 0x0B#8 →
    (∀ hw ∈ selectedDevices s.params s.present s.mem (a &&& 0xFE#8), (deviceIocon s.mem hw).getLsbD 7 = false) →
    s.inputs = .device f1 :: .elapse n1 :: .device f2 :: .elapse n2 :: rest →
      ∃ t u, exec (.regWrite a r v) s = .next t ∧ exec (.regWrite a r v) t = .next u ∧
        t.rsp.word = 0x00010000#32 ∧ u.rsp.word = 0x00010000#32 ∧ u.mem = t.mem

/-- R70, R76: the canonical form, which is the model's (entry 23), makes equal memories equal data. -/
def Obligations.CanonicalMemoriesAreEqual : Prop :=
  ∀ m m' : Memory, Memory.wf m = true → Memory.wf m' = true → (∀ b : Nat, Memory.read m b = Memory.read m' b) → m = m'

/-- R122, R74: IOCON is one byte at two offsets, 0x0A and 0x0B (where BANK is 0, R124): written at either, it reads at both with
bit 0 as 0. R72, R73: a register at any other of the offsets 0x00-0x0D, 0x14, 0x15 reads as written. R70: no other two registers
share a byte, of one device or of two (where a register is kept is the model's layout: entry 23). -/
def Obligations.IoconIsOneByte : Prop :=
  (∀ (m : Memory) (hw : Nat) (r r' v : Byte), Memory.wf m = true → (deviceIocon m hw).getLsbD 7 = false →
    (r = 0x0A#8 ∨ r = 0x0B#8) → (r' = 0x0A#8 ∨ r' = 0x0B#8) →
    deviceRead (writeDevices m [hw] r v) hw r' = v &&& 0xFE#8) ∧
  (∀ (m : Memory) (hw : Nat) (r v : Byte), Memory.wf m = true → (deviceIocon m hw).getLsbD 7 = false →
    (r ≤ 0x0D#8 ∨ r = 0x14#8 ∨ r = 0x15#8) → r ≠ 0x0A#8 → r ≠ 0x0B#8 → deviceRead (writeDevices m [hw] r v) hw r = v) ∧
  (∀ (hw hw' : Nat) (r r' : Byte),
    deviceAddr hw r = deviceAddr hw' r' ↔
      hw = hw' ∧ (r = r' ∨ ((r = 0x0A#8 ∨ r = 0x0B#8) ∧ (r' = 0x0A#8 ∨ r' = 0x0B#8))))

/-- R61: a REG_READ issued after a REG_WRITE to the same register of a device has finished sees the value written, and the two
reports are those of R173 and R174. -/
def Obligations.ReadSeesTheWriteBefore : Prop :=
  ∀ (s : State) (a r v : Byte) (hw : Nat) (f1 f2 : Bytes3) (n1 n2 : Nat) (rest : List Input),
    Ready s → SettlesIn s n1 → SettlesIn s n2 → Memory.wf s.mem = true → a.getLsbD 0 = false →
    selectedDevices s.params s.present s.mem a = [hw] → (deviceIocon s.mem hw).getLsbD 7 = false →
    (r ≤ 0x0D#8 ∨ r = 0x14#8 ∨ r = 0x15#8) → r ≠ 0x0A#8 → r ≠ 0x0B#8 →
    s.inputs = .device f1 :: .elapse n1 :: .device f2 :: .elapse n2 :: rest →
      ∃ t u, exec (.regWrite a r v) s = .next t ∧ exec (.regRead a r) t = .next u ∧
        t.rsp.word = 0x00010000#32 ∧ u.rsp.word = 0x40010000#32 ||| v.setWidth 32

/-- R1, R59, R175: on a device whose half is configured as outputs, SET_OUTPUT leaves the half's latch with the one bit as asked
and the others as they were, changes no other byte of any device, and reports the byte twice; done once more it leaves the same. -/
def Obligations.SetOutputSetsTheLatchBit : Prop :=
  ∀ (s : State) (a p : Byte) (d : Bool) (h : Half) (bit : BitVec 3) (hw : Nat) (f1 f2 f3 f4 : Bytes3) (n1 n2 n3 n4 : Nat)
    (rest : List Input),
    Ready s → SettlesIn s n1 → SettlesIn s n2 → SettlesIn s n3 → SettlesIn s n4 → Memory.wf s.mem = true →
    s.params.regMap = regMapDefault → s.params.verifyReadback = true → a.getLsbD 0 = false →
    pinDecode p = some (h, bit) → selectedDevices s.params s.present s.mem a = [hw] →
    (deviceIocon s.mem hw).getLsbD 7 = false →
    Memory.read s.mem (deviceAddr hw (halfRegs regMapDefault h).1) = 0x00#8 →
    s.inputs =
      .device f1 :: .elapse n1 :: .device f2 :: .elapse n2 :: .device f3 :: .elapse n3 :: .device f4 :: .elapse n4 :: rest →
      ∃ t, exec (.setOutput a p d) s = .next t ∧ t.rsp.code = .ok ∧ t.rsp.nfr = 4#4 ∧
        t.rsp.rdata = applyBit (Memory.read s.mem (deviceAddr hw (halfRegs regMapDefault h).2)) bit d ∧
        t.rsp.vdata = t.rsp.rdata ∧
        (∀ b : Nat, Memory.read t.mem b =
          if b = deviceAddr hw (halfRegs regMapDefault h).2 then
            applyBit (Memory.read s.mem (deviceAddr hw (halfRegs regMapDefault h).2)) bit d
          else Memory.read s.mem b) ∧
        applyBit (Memory.read t.mem (deviceAddr hw (halfRegs regMapDefault h).2)) bit d =
          Memory.read t.mem (deviceAddr hw (halfRegs regMapDefault h).2)

/-! ## Host programs (30_encoding.md R100-R102) -/

/-- R102, S8: CONFIGURE over a list of even addresses assembles to the IOCON write of every address, in order, and only then the
IODIRA and IODIRB writes of each address in order. -/
def Obligations.ConfigureIsTwoPasses : Prop :=
  ∀ (m : RegMap) (addrs : List Byte), (∀ a ∈ addrs, a.getLsbD 0 = false) →
    assemble m [.configure (some (addrs.map BitVec.toNat))] =
      .ok (addrs.map (fun a => commandWord 0x00#8 a m.iocon 0x0C#8) ++
        addrs.flatMap (fun a => [commandWord 0x00#8 a m.iodirA 0x00#8, commandWord 0x00#8 a m.iodirB 0x00#8]))

/-- R100, R95: the word of an assembled command decodes to that command, for every operand that assembles; and an operand above
255 or an odd address assembles to no word. -/
def Obligations.AssembledCommandsDecode : Prop :=
  ∀ (m : RegMap) (addr reg val : Nat) (d : Bool),
    (addr ≤ 255 ∧ addr % 2 = 0 ∧ reg ≤ 255 ∧ val ≤ 255 →
      (∃ w, asmRegWrite m addr (.number reg) val = .ok w ∧
        decodeCommand w = .ok (.regWrite (BitVec.ofNat 8 addr) (BitVec.ofNat 8 reg) (BitVec.ofNat 8 val))) ∧
      (∃ w, asmRegRead m addr (.number reg) = .ok w ∧
        decodeCommand w = .ok (.regRead (BitVec.ofNat 8 addr) (BitVec.ofNat 8 reg))) ∧
      (∃ w, asmSetOutput addr reg d = .ok w ∧
        decodeCommand w = .ok (.setOutput (BitVec.ofNat 8 addr) (BitVec.ofNat 8 reg) d))) ∧
    (255 < addr ∨ addr % 2 = 1 →
      (∀ w, asmRegWrite m addr (.number reg) val ≠ .ok w) ∧ (∀ w, asmRegRead m addr (.number reg) ≠ .ok w) ∧
        (∀ w, asmSetOutput addr reg d ≠ .ok w)) ∧
    (255 < reg →
      (∀ w, asmRegWrite m addr (.number reg) val ≠ .ok w) ∧ (∀ w, asmRegRead m addr (.number reg) ≠ .ok w) ∧
        (∀ w, asmSetOutput addr reg d ≠ .ok w)) ∧
    (255 < val → ∀ w, asmRegWrite m addr (.number reg) val ≠ .ok w)
end

