-- ==== Sys2Proof/Laws/Memory.lean ====
section
/-! SUPPORT. The laws of the devices' register memory: a read after a write, and that every write keeps the canonical form. -/

namespace Sys2Proof.Machine

theorem Memory.read_write (m : Memory) (a b : Nat) (v : Byte) :
    Memory.wf m = true → Memory.read (Memory.write m a v) b = if b = a then v else Memory.read m b := by
  intro h
  induction m with
  | nil =>
    simp only [Memory.write]
    split
    · next hv => simp only [Memory.read, hv]; split <;> simp_all
    · simp only [Memory.read]
  | cons c rest ih =>
    obtain ⟨k, u⟩ := c
    simp only [Memory.wf, Bool.and_eq_true, List.all_eq_true, decide_eq_true_eq] at h
    obtain ⟨⟨-, hlt⟩, hrest⟩ := h
    have below : ∀ x, x ≤ k → Memory.read rest x = Memory.blank x := by
      intro x hx
      clear ih hrest
      induction rest with
      | nil => rfl
      | cons d more ihm =>
        obtain ⟨j, w⟩ := d
        have hj : k < j := hlt (j, w) (by simp)
        simp only [Memory.read]
        rw [if_neg (by omega)]
        exact ihm (fun c hc => hlt c (by simp [hc]))
    simp only [Memory.write]
    split
    · next hak =>
      split
      · next hv =>
        simp only [Memory.read]
        by_cases hb : b = a
        · rw [if_neg (by omega), if_pos hb, hv, hb]; exact below a (by omega)
        · rw [if_neg hb]
      · simp only [Memory.read]
    · split
      · next hak =>
        subst hak
        split
        · next hv =>
          simp only [Memory.read]
          split
          · next hb => rw [hb, hv]; exact below a (Nat.le_refl a)
          · rfl
        · simp only [Memory.read]
          split <;> rfl
      · next hak =>
        simp only [Memory.read]
        by_cases hbk : b = k
        · rw [if_pos hbk, if_pos hbk, if_neg (by omega)]
        · rw [if_neg hbk, if_neg hbk, ih hrest]

theorem Memory.read_write_same (m : Memory) (a : Nat) (v : Byte) (h : Memory.wf m = true) :
    Memory.read (Memory.write m a v) a = v := by simp [Memory.read_write m a a v h]

theorem Memory.read_write_other (m : Memory) (a b : Nat) (v : Byte) (h : Memory.wf m = true) (hb : b ≠ a) :
    Memory.read (Memory.write m a v) b = Memory.read m b := by simp [Memory.read_write m a b v h, hb]

/-- A key of the memory after a write is the written address or a key from before. -/
theorem Memory.mem_write {m : Memory} {a : Nat} {v : Byte} {c : Host.Cell} (hc : c ∈ Memory.write m a v) :
    c.1 = a ∨ c ∈ m := by
  induction m with
  | nil =>
    simp only [Memory.write] at hc
    split at hc <;> simp_all
  | cons d rest ih =>
    obtain ⟨k, u⟩ := d
    simp only [Memory.write] at hc
    split at hc
    · split at hc
      · exact .inr hc
      · rcases List.mem_cons.mp hc with rfl | hc
        · exact .inl rfl
        · exact .inr hc
    · split at hc
      · split at hc
        · exact .inr (List.mem_cons_of_mem _ hc)
        · rcases List.mem_cons.mp hc with rfl | hc
          · exact .inl rfl
          · exact .inr (List.mem_cons_of_mem _ hc)
      · rcases List.mem_cons.mp hc with rfl | hc
        · exact .inr (by simp)
        · rcases ih hc with h | h
          · exact .inl h
          · exact .inr (List.mem_cons_of_mem _ h)

theorem Memory.write_wf {m : Memory} (a : Nat) (v : Byte) (h : Memory.wf m = true) :
    Memory.wf (Memory.write m a v) = true := by
  induction m with
  | nil =>
    simp only [Memory.write]
    split <;> simp_all [Memory.wf]
  | cons d rest ih =>
    obtain ⟨k, u⟩ := d
    have h' := h
    simp only [Memory.wf, Bool.and_eq_true, List.all_eq_true, decide_eq_true_eq, bne_iff_ne] at h'
    obtain ⟨⟨hk, hlt⟩, hrest⟩ := h'
    simp only [Memory.write]
    split
    · next hak =>
      split
      · exact h
      · next hv =>
        simp only [Memory.wf, Bool.and_eq_true, List.all_eq_true, decide_eq_true_eq, bne_iff_ne]
        refine ⟨⟨hv, ?_⟩, ⟨⟨hk, hlt⟩, hrest⟩⟩
        intro c hc
        rcases List.mem_cons.mp hc with rfl | hc
        · exact hak
        · exact Nat.lt_trans hak (hlt c hc)
    · split
      · next hak =>
        subst hak
        split
        · exact hrest
        · next hv =>
          simp only [Memory.wf, Bool.and_eq_true, List.all_eq_true, decide_eq_true_eq, bne_iff_ne]
          exact ⟨⟨hv, hlt⟩, hrest⟩
      · next hlo hne =>
        simp only [Memory.wf, Bool.and_eq_true, List.all_eq_true, decide_eq_true_eq, bne_iff_ne]
        refine ⟨⟨hk, ?_⟩, ih hrest⟩
        intro c hc
        rcases Memory.mem_write hc with h1 | h1
        · omega
        · exact hlt c h1

/-- The offsets a reference device stores, written out (R72, R73). -/
theorem storedOffset_iff (r : Byte) : storedOffset r = true ↔ (r ≤ 0x0D#8 ∨ r = 0x14#8 ∨ r = 0x15#8) := by
  simp [storedOffset, or_assoc]

/-- The offsets of IOCON, written out (R122). -/
theorem isIocon_iff (r : Byte) : isIocon r = true ↔ (r = 0x0A#8 ∨ r = 0x0B#8) := by
  simp [isIocon]

/-- Registers of two devices are kept apart. -/
theorem deviceAddr_hw {hw hw' : Nat} {r r' : Byte} (h : deviceAddr hw r = deviceAddr hw' r') : hw = hw' := by
  unfold deviceAddr at h
  omega

/-- Where BANK is 0, the offset of a frame is the register's. -/
theorem addressed_of_bank0 {m : Memory} {hw : Nat} (r : Byte) (h : (deviceIocon m hw).getLsbD 7 = false) :
    addressed m hw r = r := by
  unfold addressed
  rw [h]
  rfl

/-- Where BANK is 1, which register it names is free. -/
theorem addressed_of_bank1 {m : Memory} {hw : Nat} (r : Byte) (h : (deviceIocon m hw).getLsbD 7 = true) :
    addressed m hw r = Config.bankedRegister r := by
  unfold addressed
  rw [h]
  rfl

theorem storeAddressed_wf (m : Memory) (r v : Byte) (hw : Nat) {acc : Memory} (h : Memory.wf acc = true) :
    Memory.wf (storeAddressed m r acc hw v) = true := by
  unfold storeAddressed
  split
  · exact Memory.write_wf _ _ h
  · exact h

/-- What a store at an addressed register leaves in every byte. -/
theorem storeAddressed_read (m : Memory) (r v : Byte) (hw b : Nat) {acc : Memory} (h : Memory.wf acc = true) :
    Memory.read (storeAddressed m r acc hw v) b =
      if addressed m hw r ≤ 0x15#8 ∧ b = deviceAddr hw (addressed m hw r) then v else Memory.read acc b := by
  unfold storeAddressed
  split
  · next he => rw [Memory.read_write _ _ _ _ h]; simp only [he, true_and]
  · next he => simp only [he, false_and, if_false]

/-- A fold of stores at addressed registers, over any list of things that name a device and a byte. -/
theorem foldl_store_wf {α : Type} (m : Memory) (r : Byte) (f : α → Nat) (g : α → Byte) (l : List α) {acc : Memory}
    (h : Memory.wf acc = true) : Memory.wf (l.foldl (fun acc x => storeAddressed m r acc (f x) (g x)) acc) = true := by
  induction l generalizing acc with
  | nil => exact h
  | cons x rest ih => exact ih (storeAddressed_wf m r (g x) (f x) h)

/-- Such a fold leaves every byte but the registers addressed in the devices it names. -/
theorem foldl_store_read_other {α : Type} (m : Memory) (r : Byte) (f : α → Nat) (g : α → Byte) (l : List α) {acc : Memory}
    (b : Nat) (h : Memory.wf acc = true) (hb : ∀ x ∈ l, addressed m (f x) r ≤ 0x15#8 → b ≠ deviceAddr (f x) (addressed m (f x) r)) :
    Memory.read (l.foldl (fun acc x => storeAddressed m r acc (f x) (g x)) acc) b = Memory.read acc b := by
  induction l generalizing acc with
  | nil => rfl
  | cons x rest ih =>
    rw [List.foldl_cons, ih (storeAddressed_wf m r (g x) (f x) h) (fun y hy => hb y (List.mem_cons_of_mem _ hy)),
      storeAddressed_read m r (g x) (f x) b h, if_neg (fun hc => hb x List.mem_cons_self hc.1 hc.2)]

/-- Such a fold that names each device once leaves its byte in the register addressed there, if the device has it. -/
theorem foldl_store_read_same {α : Type} (m : Memory) (r : Byte) (f : α → Nat) (g : α → Byte) (l : List α) {acc : Memory}
    (x : α) (h : Memory.wf acc = true) (hx : x ∈ l) (hn : (l.map f).Nodup) (he : addressed m (f x) r ≤ 0x15#8) :
    Memory.read (l.foldl (fun acc x => storeAddressed m r acc (f x) (g x)) acc) (deviceAddr (f x) (addressed m (f x) r)) =
      g x := by
  induction l generalizing acc with
  | nil => cases hx
  | cons y rest ih =>
    rw [List.map_cons, List.nodup_cons] at hn
    rw [List.foldl_cons]
    rcases List.mem_cons.mp hx with rfl | hx
    · rw [foldl_store_read_other m r f g rest _ (storeAddressed_wf m r (g x) (f x) h), storeAddressed_read m r (g x) (f x) _ h,
        if_pos ⟨he, rfl⟩]
      intro z hz _ hc
      exact hn.1 (deviceAddr_hw hc ▸ List.mem_map_of_mem hz)
    · exact ih (storeAddressed_wf m r (g y) (f y) h) hx hn.2

theorem writeDevices_wf {m : Memory} (hws : List Nat) (r v : Byte) (h : Memory.wf m = true) :
    Memory.wf (writeDevices m hws r v) = true := foldl_store_wf m r id (fun _ => v) hws h

/-- A write to devices leaves every byte but the addressed registers of those devices. -/
theorem writeDevices_read_other {m : Memory} (hws : List Nat) (r v : Byte) (b : Nat) (h : Memory.wf m = true)
    (hb : ∀ hw ∈ hws, addressed m hw r ≤ 0x15#8 → b ≠ deviceAddr hw (addressed m hw r)) : Memory.read (writeDevices m hws r v) b = Memory.read m b :=
  foldl_store_read_other m r id (fun _ => v) hws b h hb

/-- A write to devices leaves the byte written in the addressed register of each that has it. -/
theorem writeDevices_read_same {m : Memory} (hws : List Nat) (r v : Byte) (hw : Nat) (h : Memory.wf m = true)
    (hmem : hw ∈ hws) (he : addressed m hw r ≤ 0x15#8) :
    Memory.read (writeDevices m hws r v) (deviceAddr hw (addressed m hw r)) = v := by
  suffices ∀ (l : List Nat) (acc : Memory), Memory.wf acc = true →
      (hw ∈ l ∨ Memory.read acc (deviceAddr hw (addressed m hw r)) = v) →
        Memory.read (l.foldl (fun acc x => storeAddressed m r acc x v) acc) (deviceAddr hw (addressed m hw r)) = v from
    this hws m h (.inl hmem)
  intro l
  induction l with
  | nil => intro acc _ hc; exact hc.resolve_left List.not_mem_nil
  | cons x rest ih =>
    intro acc hacc hc
    refine ih _ (storeAddressed_wf m r v x hacc) ?_
    rw [storeAddressed_read m r v x _ hacc]
    split
    · exact .inr rfl
    · next hx =>
      rcases hc with hc | hc
      · rcases List.mem_cons.mp hc with rfl | hc
        · exact absurd ⟨he, rfl⟩ hx
        · exact .inl hc
      · exact .inr hc

/-- Whatever an input answers, the devices' memory stays in canonical form. -/
theorem respond_wf {p : Params} {present : BitVec 8} {m m' : Memory} {tx : Bytes3} {i : Input} {a : Answer}
    (h : Memory.wf m = true) (hr : respond p present m tx i = .answer a m') : Memory.wf m' = true := by
  cases i with
  | oracle b => simp only [respond, Reply.answer.injEq] at hr; exact hr.2 ▸ h
  | device fill =>
    simp only [respond, deviceOk] at hr
    split at hr
    · cases hr
    · split at hr
      · simp only [Reply.answer.injEq] at hr; exact hr.2 ▸ writeDevices_wf _ _ _ h
      · split at hr <;> (simp only [Reply.answer.injEq] at hr; exact hr.2 ▸ h)
  | deviceErr applied =>
    simp only [respond, deviceErrReply] at hr
    split at hr
    · cases hr
    · split at hr
      · simp only [Reply.answer.injEq] at hr; exact hr.2 ▸ writeDevices_wf _ _ _ h
      · simp only [Reply.answer.injEq] at hr; exact hr.2 ▸ h
  | lateAnswer b => simp [respond] at hr
  | elapse t => simp [respond] at hr
  | reset d => simp [respond] at hr

theorem cutDevices_wf (p : Params) (present : BitVec 8) {m : Memory} (tx : Bytes3) (draws : List CutDraw)
    (h : Memory.wf m = true) : Memory.wf (cutDevices p present m tx draws) = true :=
  foldl_store_wf m tx.b1 (fun d : CutDraw => d.hw.toNat) CutDraw.v _ h

/-- A cut frame leaves every byte but the registers that it addresses in the devices it selects. -/
theorem cutDevices_read_other (p : Params) (present : BitVec 8) {m : Memory} (tx : Bytes3) (draws : List CutDraw) (b : Nat)
    (h : Memory.wf m = true)
    (hb : ∀ hw ∈ selectedDevices p present m tx.b0, addressed m hw tx.b1 ≤ 0x15#8 →
      b ≠ deviceAddr hw (addressed m hw tx.b1)) :
    Memory.read (cutDevices p present m tx draws) b = Memory.read m b := by
  refine foldl_store_read_other m tx.b1 (fun d : CutDraw => d.hw.toNat) CutDraw.v _ b h fun d hd => ?_
  exact hb _ (by simpa using (List.mem_filter.mp hd).2)

end Sys2Proof.Machine
end

