-- ==== Sys2Proof/Laws/State.lean ====
section
/-! SUPPORT. One lemma per field for each named operation on the state (and for RSP's updates), so that no later proof unfolds
a record update. -/

namespace Sys2Proof.Machine

@[simp] theorem busyRsp_busy (r : Rsp) : (busyRsp r).busy = true := rfl
@[simp] theorem busyRsp_rvalid (r : Rsp) : (busyRsp r).rvalid = r.rvalid := rfl
@[simp] theorem busyRsp_vvalid (r : Rsp) : (busyRsp r).vvalid = r.vvalid := rfl
@[simp] theorem busyRsp_code (r : Rsp) : (busyRsp r).code = r.code := rfl
@[simp] theorem busyRsp_nfr (r : Rsp) : (busyRsp r).nfr = r.nfr := rfl
@[simp] theorem busyRsp_vdata (r : Rsp) : (busyRsp r).vdata = r.vdata := rfl
@[simp] theorem busyRsp_rdata (r : Rsp) : (busyRsp r).rdata = r.rdata := rfl

@[simp] theorem receivedBytes_ok (rx old : Bytes3) : receivedBytes (.ok rx) old = rx := rfl
@[simp] theorem receivedBytes_err (old : Bytes3) : receivedBytes .err old = old := rfl
@[simp] theorem isOk_ok (rx : Bytes3) : isOk (.ok rx) = true := rfl
@[simp] theorem isOk_err : isOk .err = false := rfl
@[simp] theorem laterTimer_elapsed (t : Nat) : laterTimer t .elapsed = .elapsed := rfl
@[simp] theorem laterTimer_since (t u : Nat) : laterTimer t (.since u) = .since (u + t) := rfl

section
variable (code : Code) (r v : Option Byte) (n : BitVec 3)

@[simp] theorem finishedRsp_busy : (finishedRsp code r v n).busy = false := rfl
@[simp] theorem finishedRsp_rvalid : (finishedRsp code r v n).rvalid = r.isSome := rfl
@[simp] theorem finishedRsp_vvalid : (finishedRsp code r v n).vvalid = v.isSome := rfl
@[simp] theorem finishedRsp_code : (finishedRsp code r v n).code = code := rfl
@[simp] theorem finishedRsp_nfr : (finishedRsp code r v n).nfr = n.setWidth 4 := rfl
@[simp] theorem finishedRsp_vdata : (finishedRsp code r v n).vdata = v.getD 0x00#8 := rfl
@[simp] theorem finishedRsp_rdata : (finishedRsp code r v n).rdata = r.getD 0x00#8 := rfl

end

section
variable (s : State)

@[simp] theorem accept_ph : (accept s).ph = s.ph := rfl
@[simp] theorem accept_sub : (accept s).sub = .settle := rfl
@[simp] theorem accept_cmd : (accept s).cmd = s.cmd := rfl
@[simp] theorem accept_work : (accept s).work = s.work := rfl
@[simp] theorem accept_tx : (accept s).tx = s.tx := rfl
@[simp] theorem accept_rx : (accept s).rx = s.rx := rfl
@[simp] theorem accept_rxHeld : (accept s).rxHeld = s.rxHeld := rfl
@[simp] theorem accept_csN : (accept s).csN = s.csN := rfl
@[simp] theorem accept_st : (accept s).st = s.st := rfl
@[simp] theorem accept_nFrames : (accept s).nFrames = 0#3 := rfl
@[simp] theorem accept_rsp : (accept s).rsp = busyRsp s.rsp := rfl
@[simp] theorem accept_params : (accept s).params = s.params := rfl
@[simp] theorem accept_port : (accept s).port = s.port := rfl
@[simp] theorem accept_inputs : (accept s).inputs = s.inputs := rfl
@[simp] theorem accept_trace : (accept s).trace = s.trace := rfl
@[simp] theorem accept_present : (accept s).present = s.present := rfl
@[simp] theorem accept_mem : (accept s).mem = s.mem := rfl

end

section
variable (l : List Input) (s : State)

@[simp] theorem withInputs_ph : (withInputs l s).ph = s.ph := rfl
@[simp] theorem withInputs_sub : (withInputs l s).sub = s.sub := rfl
@[simp] theorem withInputs_cmd : (withInputs l s).cmd = s.cmd := rfl
@[simp] theorem withInputs_work : (withInputs l s).work = s.work := rfl
@[simp] theorem withInputs_tx : (withInputs l s).tx = s.tx := rfl
@[simp] theorem withInputs_rx : (withInputs l s).rx = s.rx := rfl
@[simp] theorem withInputs_rxHeld : (withInputs l s).rxHeld = s.rxHeld := rfl
@[simp] theorem withInputs_csN : (withInputs l s).csN = s.csN := rfl
@[simp] theorem withInputs_st : (withInputs l s).st = s.st := rfl
@[simp] theorem withInputs_nFrames : (withInputs l s).nFrames = s.nFrames := rfl
@[simp] theorem withInputs_rsp : (withInputs l s).rsp = s.rsp := rfl
@[simp] theorem withInputs_params : (withInputs l s).params = s.params := rfl
@[simp] theorem withInputs_port : (withInputs l s).port = s.port := rfl
@[simp] theorem withInputs_inputs : (withInputs l s).inputs = l := rfl
@[simp] theorem withInputs_trace : (withInputs l s).trace = s.trace := rfl
@[simp] theorem withInputs_present : (withInputs l s).present = s.present := rfl
@[simp] theorem withInputs_mem : (withInputs l s).mem = s.mem := rfl

end

section
variable (st : SettleTimer) (s : State)

@[simp] theorem withTimer_ph : (withTimer st s).ph = s.ph := rfl
@[simp] theorem withTimer_sub : (withTimer st s).sub = s.sub := rfl
@[simp] theorem withTimer_cmd : (withTimer st s).cmd = s.cmd := rfl
@[simp] theorem withTimer_work : (withTimer st s).work = s.work := rfl
@[simp] theorem withTimer_tx : (withTimer st s).tx = s.tx := rfl
@[simp] theorem withTimer_rx : (withTimer st s).rx = s.rx := rfl
@[simp] theorem withTimer_rxHeld : (withTimer st s).rxHeld = s.rxHeld := rfl
@[simp] theorem withTimer_csN : (withTimer st s).csN = s.csN := rfl
@[simp] theorem withTimer_st : (withTimer st s).st = st := rfl
@[simp] theorem withTimer_nFrames : (withTimer st s).nFrames = s.nFrames := rfl
@[simp] theorem withTimer_rsp : (withTimer st s).rsp = s.rsp := rfl
@[simp] theorem withTimer_params : (withTimer st s).params = s.params := rfl
@[simp] theorem withTimer_port : (withTimer st s).port = s.port := rfl
@[simp] theorem withTimer_inputs : (withTimer st s).inputs = s.inputs := rfl
@[simp] theorem withTimer_trace : (withTimer st s).trace = s.trace := rfl
@[simp] theorem withTimer_present : (withTimer st s).present = s.present := rfl
@[simp] theorem withTimer_mem : (withTimer st s).mem = s.mem := rfl

end

section
variable (m : Memory) (s : State)

@[simp] theorem withMem_ph : (withMem m s).ph = s.ph := rfl
@[simp] theorem withMem_sub : (withMem m s).sub = s.sub := rfl
@[simp] theorem withMem_cmd : (withMem m s).cmd = s.cmd := rfl
@[simp] theorem withMem_work : (withMem m s).work = s.work := rfl
@[simp] theorem withMem_tx : (withMem m s).tx = s.tx := rfl
@[simp] theorem withMem_rx : (withMem m s).rx = s.rx := rfl
@[simp] theorem withMem_rxHeld : (withMem m s).rxHeld = s.rxHeld := rfl
@[simp] theorem withMem_csN : (withMem m s).csN = s.csN := rfl
@[simp] theorem withMem_st : (withMem m s).st = s.st := rfl
@[simp] theorem withMem_nFrames : (withMem m s).nFrames = s.nFrames := rfl
@[simp] theorem withMem_rsp : (withMem m s).rsp = s.rsp := rfl
@[simp] theorem withMem_params : (withMem m s).params = s.params := rfl
@[simp] theorem withMem_port : (withMem m s).port = s.port := rfl
@[simp] theorem withMem_inputs : (withMem m s).inputs = s.inputs := rfl
@[simp] theorem withMem_trace : (withMem m s).trace = s.trace := rfl
@[simp] theorem withMem_present : (withMem m s).present = s.present := rfl
@[simp] theorem withMem_mem : (withMem m s).mem = m := rfl

end

section
variable (ph : Phase) (s : State)

@[simp] theorem withPhase_ph : (withPhase ph s).ph = ph := rfl
@[simp] theorem withPhase_sub : (withPhase ph s).sub = s.sub := rfl
@[simp] theorem withPhase_cmd : (withPhase ph s).cmd = s.cmd := rfl
@[simp] theorem withPhase_work : (withPhase ph s).work = s.work := rfl
@[simp] theorem withPhase_tx : (withPhase ph s).tx = s.tx := rfl
@[simp] theorem withPhase_rx : (withPhase ph s).rx = s.rx := rfl
@[simp] theorem withPhase_rxHeld : (withPhase ph s).rxHeld = s.rxHeld := rfl
@[simp] theorem withPhase_csN : (withPhase ph s).csN = s.csN := rfl
@[simp] theorem withPhase_st : (withPhase ph s).st = s.st := rfl
@[simp] theorem withPhase_nFrames : (withPhase ph s).nFrames = s.nFrames := rfl
@[simp] theorem withPhase_rsp : (withPhase ph s).rsp = s.rsp := rfl
@[simp] theorem withPhase_params : (withPhase ph s).params = s.params := rfl
@[simp] theorem withPhase_port : (withPhase ph s).port = s.port := rfl
@[simp] theorem withPhase_inputs : (withPhase ph s).inputs = s.inputs := rfl
@[simp] theorem withPhase_trace : (withPhase ph s).trace = s.trace := rfl
@[simp] theorem withPhase_present : (withPhase ph s).present = s.present := rfl
@[simp] theorem withPhase_mem : (withPhase ph s).mem = s.mem := rfl

end

section
variable (y : Byte) (s : State)

@[simp] theorem verifyValue_ph : (verifyValue y s).ph = s.ph := rfl
@[simp] theorem verifyValue_sub : (verifyValue y s).sub = s.sub := rfl
@[simp] theorem verifyValue_cmd : (verifyValue y s).cmd = s.cmd := rfl
@[simp] theorem verifyValue_work : (verifyValue y s).work = { s.work with vrb := y } := rfl
@[simp] theorem verifyValue_tx : (verifyValue y s).tx = s.tx := rfl
@[simp] theorem verifyValue_rx : (verifyValue y s).rx = s.rx := rfl
@[simp] theorem verifyValue_rxHeld : (verifyValue y s).rxHeld = s.rxHeld := rfl
@[simp] theorem verifyValue_csN : (verifyValue y s).csN = s.csN := rfl
@[simp] theorem verifyValue_st : (verifyValue y s).st = s.st := rfl
@[simp] theorem verifyValue_nFrames : (verifyValue y s).nFrames = s.nFrames := rfl
@[simp] theorem verifyValue_rsp : (verifyValue y s).rsp = s.rsp := rfl
@[simp] theorem verifyValue_params : (verifyValue y s).params = s.params := rfl
@[simp] theorem verifyValue_port : (verifyValue y s).port = s.port := rfl
@[simp] theorem verifyValue_inputs : (verifyValue y s).inputs = s.inputs := rfl
@[simp] theorem verifyValue_trace : (verifyValue y s).trace = s.trace := rfl
@[simp] theorem verifyValue_present : (verifyValue y s).present = s.present := rfl
@[simp] theorem verifyValue_mem : (verifyValue y s).mem = s.mem := rfl

end

section
variable (t : Nat) (s : State)

@[simp] theorem passTime_ph : (passTime t s).ph = s.ph := rfl
@[simp] theorem passTime_sub : (passTime t s).sub = s.sub := rfl
@[simp] theorem passTime_cmd : (passTime t s).cmd = s.cmd := rfl
@[simp] theorem passTime_work : (passTime t s).work = s.work := rfl
@[simp] theorem passTime_tx : (passTime t s).tx = s.tx := rfl
@[simp] theorem passTime_rx : (passTime t s).rx = s.rx := rfl
@[simp] theorem passTime_rxHeld : (passTime t s).rxHeld = s.rxHeld := rfl
@[simp] theorem passTime_csN : (passTime t s).csN = s.csN := rfl
@[simp] theorem passTime_st : (passTime t s).st = laterTimer t s.st := rfl
@[simp] theorem passTime_nFrames : (passTime t s).nFrames = s.nFrames := rfl
@[simp] theorem passTime_rsp : (passTime t s).rsp = s.rsp := rfl
@[simp] theorem passTime_params : (passTime t s).params = s.params := rfl
@[simp] theorem passTime_port : (passTime t s).port = s.port := rfl
@[simp] theorem passTime_inputs : (passTime t s).inputs = s.inputs := rfl
@[simp] theorem passTime_trace : (passTime t s).trace = s.trace := rfl
@[simp] theorem passTime_present : (passTime t s).present = s.present := rfl
@[simp] theorem passTime_mem : (passTime t s).mem = s.mem := rfl

end

section
variable (a : Answer) (m : Memory) (s : State)

@[simp] theorem answered_ph : (answered a m s).ph = s.ph := rfl
@[simp] theorem answered_sub : (answered a m s).sub = .settle := rfl
@[simp] theorem answered_cmd : (answered a m s).cmd = s.cmd := rfl
@[simp] theorem answered_work : (answered a m s).work = s.work := rfl
@[simp] theorem answered_tx : (answered a m s).tx = s.tx := rfl
@[simp] theorem answered_rx : (answered a m s).rx = receivedBytes a s.rx := rfl
@[simp] theorem answered_rxHeld : (answered a m s).rxHeld = isOk a := rfl
@[simp] theorem answered_csN : (answered a m s).csN = true := rfl
@[simp] theorem answered_st : (answered a m s).st = .since 0 := rfl
@[simp] theorem answered_nFrames : (answered a m s).nFrames = s.nFrames := rfl
@[simp] theorem answered_rsp : (answered a m s).rsp = s.rsp := rfl
@[simp] theorem answered_params : (answered a m s).params = s.params := rfl
@[simp] theorem answered_port : (answered a m s).port = s.port := rfl
@[simp] theorem answered_inputs : (answered a m s).inputs = s.inputs := rfl
@[simp] theorem answered_trace : (answered a m s).trace = s.trace ++ [FrameEvent.mk s.tx a] := rfl
@[simp] theorem answered_present : (answered a m s).present = s.present := rfl
@[simp] theorem answered_mem : (answered a m s).mem = m := rfl

end

section
variable (code : Code) (r v : Option Byte) (s : State)

@[simp] theorem finish_ph : (finish code r v s).ph = .idle := rfl
@[simp] theorem finish_sub : (finish code r v s).sub = s.sub := rfl
@[simp] theorem finish_cmd : (finish code r v s).cmd = s.cmd := rfl
@[simp] theorem finish_work : (finish code r v s).work = s.work := rfl
@[simp] theorem finish_tx : (finish code r v s).tx = s.tx := rfl
@[simp] theorem finish_rx : (finish code r v s).rx = s.rx := rfl
@[simp] theorem finish_rxHeld : (finish code r v s).rxHeld = s.rxHeld := rfl
@[simp] theorem finish_csN : (finish code r v s).csN = s.csN := rfl
@[simp] theorem finish_st : (finish code r v s).st = s.st := rfl
@[simp] theorem finish_nFrames : (finish code r v s).nFrames = s.nFrames := rfl
@[simp] theorem finish_rsp : (finish code r v s).rsp = finishedRsp code r v s.nFrames := rfl
@[simp] theorem finish_params : (finish code r v s).params = s.params := rfl
@[simp] theorem finish_port : (finish code r v s).port = s.port := rfl
@[simp] theorem finish_inputs : (finish code r v s).inputs = s.inputs := rfl
@[simp] theorem finish_trace : (finish code r v s).trace = s.trace := rfl
@[simp] theorem finish_present : (finish code r v s).present = s.present := rfl
@[simp] theorem finish_mem : (finish code r v s).mem = s.mem := rfl

end

section
variable (tx : Bytes3) (s : State)

@[simp] theorem launch_ph : (launch tx s).ph = s.ph := rfl
@[simp] theorem launch_sub : (launch tx s).sub = .xfer := rfl
@[simp] theorem launch_cmd : (launch tx s).cmd = s.cmd := rfl
@[simp] theorem launch_work : (launch tx s).work = s.work := rfl
@[simp] theorem launch_tx : (launch tx s).tx = tx := rfl
@[simp] theorem launch_rx : (launch tx s).rx = s.rx := rfl
@[simp] theorem launch_rxHeld : (launch tx s).rxHeld = s.rxHeld := rfl
@[simp] theorem launch_csN : (launch tx s).csN = false := rfl
@[simp] theorem launch_st : (launch tx s).st = s.st := rfl
@[simp] theorem launch_nFrames : (launch tx s).nFrames = s.nFrames + 1#3 := rfl
@[simp] theorem launch_rsp : (launch tx s).rsp = s.rsp := rfl
@[simp] theorem launch_params : (launch tx s).params = s.params := rfl
@[simp] theorem launch_port : (launch tx s).port = s.port := rfl
@[simp] theorem launch_inputs : (launch tx s).inputs = s.inputs := rfl
@[simp] theorem launch_trace : (launch tx s).trace = s.trace := rfl
@[simp] theorem launch_present : (launch tx s).present = s.present := rfl
@[simp] theorem launch_mem : (launch tx s).mem = s.mem := rfl

end

section
variable (s : State)

@[simp] theorem resetBlock_ph : (resetBlock s).ph = State.reset.ph := rfl
@[simp] theorem resetBlock_sub : (resetBlock s).sub = State.reset.sub := rfl
@[simp] theorem resetBlock_cmd : (resetBlock s).cmd = State.reset.cmd := rfl
@[simp] theorem resetBlock_work : (resetBlock s).work = State.reset.work := rfl
@[simp] theorem resetBlock_tx : (resetBlock s).tx = State.reset.tx := rfl
@[simp] theorem resetBlock_rx : (resetBlock s).rx = State.reset.rx := rfl
@[simp] theorem resetBlock_rxHeld : (resetBlock s).rxHeld = State.reset.rxHeld := rfl
@[simp] theorem resetBlock_csN : (resetBlock s).csN = State.reset.csN := rfl
@[simp] theorem resetBlock_st : (resetBlock s).st = State.reset.st := rfl
@[simp] theorem resetBlock_nFrames : (resetBlock s).nFrames = State.reset.nFrames := rfl
@[simp] theorem resetBlock_rsp : (resetBlock s).rsp = State.reset.rsp := rfl
@[simp] theorem resetBlock_params : (resetBlock s).params = s.params := rfl
@[simp] theorem resetBlock_port : (resetBlock s).port = s.port := rfl
@[simp] theorem resetBlock_inputs : (resetBlock s).inputs = s.inputs := rfl
@[simp] theorem resetBlock_trace : (resetBlock s).trace = s.trace := rfl
@[simp] theorem resetBlock_present : (resetBlock s).present = s.present := rfl
@[simp] theorem resetBlock_mem : (resetBlock s).mem = s.mem := rfl

end

section
variable (s : State)

@[simp] theorem takeWord_ph : (takeWord s).ph = s.ph := rfl
@[simp] theorem takeWord_sub : (takeWord s).sub = s.sub := rfl
@[simp] theorem takeWord_cmd : (takeWord s).cmd = s.cmd := rfl
@[simp] theorem takeWord_work : (takeWord s).work = s.work := rfl
@[simp] theorem takeWord_tx : (takeWord s).tx = s.tx := rfl
@[simp] theorem takeWord_rx : (takeWord s).rx = s.rx := rfl
@[simp] theorem takeWord_rxHeld : (takeWord s).rxHeld = s.rxHeld := rfl
@[simp] theorem takeWord_csN : (takeWord s).csN = s.csN := rfl
@[simp] theorem takeWord_st : (takeWord s).st = s.st := rfl
@[simp] theorem takeWord_nFrames : (takeWord s).nFrames = s.nFrames := rfl
@[simp] theorem takeWord_rsp : (takeWord s).rsp = s.rsp := rfl
@[simp] theorem takeWord_params : (takeWord s).params = s.params := rfl
@[simp] theorem takeWord_port : (takeWord s).port = s.port.tail := rfl
@[simp] theorem takeWord_inputs : (takeWord s).inputs = s.inputs := rfl
@[simp] theorem takeWord_trace : (takeWord s).trace = s.trace := rfl
@[simp] theorem takeWord_present : (takeWord s).present = s.present := rfl
@[simp] theorem takeWord_mem : (takeWord s).mem = s.mem := rfl

end

section
variable (prev : Byte) (s : State)

@[simp] theorem newByte_ph : (newByte prev s).ph = .fWr := rfl
@[simp] theorem newByte_sub : (newByte prev s).sub = s.sub := rfl
@[simp] theorem newByte_cmd : (newByte prev s).cmd = s.cmd := rfl
@[simp] theorem newByte_work : (newByte prev s).work = { s.work with prev := prev, new := applyBit prev s.work.bit s.cmd.d } := rfl
@[simp] theorem newByte_tx : (newByte prev s).tx = s.tx := rfl
@[simp] theorem newByte_rx : (newByte prev s).rx = s.rx := rfl
@[simp] theorem newByte_rxHeld : (newByte prev s).rxHeld = s.rxHeld := rfl
@[simp] theorem newByte_csN : (newByte prev s).csN = s.csN := rfl
@[simp] theorem newByte_st : (newByte prev s).st = s.st := rfl
@[simp] theorem newByte_nFrames : (newByte prev s).nFrames = s.nFrames := rfl
@[simp] theorem newByte_rsp : (newByte prev s).rsp = s.rsp := rfl
@[simp] theorem newByte_params : (newByte prev s).params = s.params := rfl
@[simp] theorem newByte_port : (newByte prev s).port = s.port := rfl
@[simp] theorem newByte_inputs : (newByte prev s).inputs = s.inputs := rfl
@[simp] theorem newByte_trace : (newByte prev s).trace = s.trace := rfl
@[simp] theorem newByte_present : (newByte prev s).present = s.present := rfl
@[simp] theorem newByte_mem : (newByte prev s).mem = s.mem := rfl

end

section
variable (v : Byte) (s : State)

@[simp] theorem directionValue_ph : (directionValue v s).ph = s.ph := rfl
@[simp] theorem directionValue_sub : (directionValue v s).sub = s.sub := rfl
@[simp] theorem directionValue_cmd : (directionValue v s).cmd = s.cmd := rfl
@[simp] theorem directionValue_work : (directionValue v s).work = { s.work with dirV := v } := rfl
@[simp] theorem directionValue_tx : (directionValue v s).tx = s.tx := rfl
@[simp] theorem directionValue_rx : (directionValue v s).rx = s.rx := rfl
@[simp] theorem directionValue_rxHeld : (directionValue v s).rxHeld = s.rxHeld := rfl
@[simp] theorem directionValue_csN : (directionValue v s).csN = s.csN := rfl
@[simp] theorem directionValue_st : (directionValue v s).st = s.st := rfl
@[simp] theorem directionValue_nFrames : (directionValue v s).nFrames = s.nFrames := rfl
@[simp] theorem directionValue_rsp : (directionValue v s).rsp = s.rsp := rfl
@[simp] theorem directionValue_params : (directionValue v s).params = s.params := rfl
@[simp] theorem directionValue_port : (directionValue v s).port = s.port := rfl
@[simp] theorem directionValue_inputs : (directionValue v s).inputs = s.inputs := rfl
@[simp] theorem directionValue_trace : (directionValue v s).trace = s.trace := rfl
@[simp] theorem directionValue_present : (directionValue v s).present = s.present := rfl
@[simp] theorem directionValue_mem : (directionValue v s).mem = s.mem := rfl

end

section
variable (h : Half) (bit : BitVec 3) (s : State)

@[simp] theorem selectHalf_ph : (selectHalf h bit s).ph = .fDir := rfl
@[simp] theorem selectHalf_sub : (selectHalf h bit s).sub = s.sub := rfl
@[simp] theorem selectHalf_cmd : (selectHalf h bit s).cmd = s.cmd := rfl
@[simp] theorem selectHalf_work : (selectHalf h bit s).work = { s.work with half := h, bit := bit, dirReg := (halfRegs s.params.regMap h).1, latReg := (halfRegs s.params.regMap h).2 } := rfl
@[simp] theorem selectHalf_tx : (selectHalf h bit s).tx = s.tx := rfl
@[simp] theorem selectHalf_rx : (selectHalf h bit s).rx = s.rx := rfl
@[simp] theorem selectHalf_rxHeld : (selectHalf h bit s).rxHeld = s.rxHeld := rfl
@[simp] theorem selectHalf_csN : (selectHalf h bit s).csN = s.csN := rfl
@[simp] theorem selectHalf_st : (selectHalf h bit s).st = s.st := rfl
@[simp] theorem selectHalf_nFrames : (selectHalf h bit s).nFrames = s.nFrames := rfl
@[simp] theorem selectHalf_rsp : (selectHalf h bit s).rsp = s.rsp := rfl
@[simp] theorem selectHalf_params : (selectHalf h bit s).params = s.params := rfl
@[simp] theorem selectHalf_port : (selectHalf h bit s).port = s.port := rfl
@[simp] theorem selectHalf_inputs : (selectHalf h bit s).inputs = s.inputs := rfl
@[simp] theorem selectHalf_trace : (selectHalf h bit s).trace = s.trace := rfl
@[simp] theorem selectHalf_present : (selectHalf h bit s).present = s.present := rfl
@[simp] theorem selectHalf_mem : (selectHalf h bit s).mem = s.mem := rfl

end

section
variable (a r v : Byte) (s : State)

@[simp] theorem latchRegWrite_ph : (latchRegWrite a r v s).ph = .fOne := rfl
@[simp] theorem latchRegWrite_sub : (latchRegWrite a r v s).sub = .settle := rfl
@[simp] theorem latchRegWrite_cmd : (latchRegWrite a r v s).cmd = { s.cmd with op := 0#2, addr := a, reg := r, val := v } := rfl
@[simp] theorem latchRegWrite_work : (latchRegWrite a r v s).work = s.work := rfl
@[simp] theorem latchRegWrite_tx : (latchRegWrite a r v s).tx = s.tx := rfl
@[simp] theorem latchRegWrite_rx : (latchRegWrite a r v s).rx = s.rx := rfl
@[simp] theorem latchRegWrite_rxHeld : (latchRegWrite a r v s).rxHeld = s.rxHeld := rfl
@[simp] theorem latchRegWrite_csN : (latchRegWrite a r v s).csN = s.csN := rfl
@[simp] theorem latchRegWrite_st : (latchRegWrite a r v s).st = s.st := rfl
@[simp] theorem latchRegWrite_nFrames : (latchRegWrite a r v s).nFrames = 0#3 := rfl
@[simp] theorem latchRegWrite_rsp : (latchRegWrite a r v s).rsp = busyRsp s.rsp := rfl
@[simp] theorem latchRegWrite_params : (latchRegWrite a r v s).params = s.params := rfl
@[simp] theorem latchRegWrite_port : (latchRegWrite a r v s).port = s.port := rfl
@[simp] theorem latchRegWrite_inputs : (latchRegWrite a r v s).inputs = s.inputs := rfl
@[simp] theorem latchRegWrite_trace : (latchRegWrite a r v s).trace = s.trace := rfl
@[simp] theorem latchRegWrite_present : (latchRegWrite a r v s).present = s.present := rfl
@[simp] theorem latchRegWrite_mem : (latchRegWrite a r v s).mem = s.mem := rfl

end

section
variable (a r : Byte) (s : State)

@[simp] theorem latchRegRead_ph : (latchRegRead a r s).ph = .fOne := rfl
@[simp] theorem latchRegRead_sub : (latchRegRead a r s).sub = .settle := rfl
@[simp] theorem latchRegRead_cmd : (latchRegRead a r s).cmd = { s.cmd with op := 1#2, addr := a, reg := r } := rfl
@[simp] theorem latchRegRead_work : (latchRegRead a r s).work = s.work := rfl
@[simp] theorem latchRegRead_tx : (latchRegRead a r s).tx = s.tx := rfl
@[simp] theorem latchRegRead_rx : (latchRegRead a r s).rx = s.rx := rfl
@[simp] theorem latchRegRead_rxHeld : (latchRegRead a r s).rxHeld = s.rxHeld := rfl
@[simp] theorem latchRegRead_csN : (latchRegRead a r s).csN = s.csN := rfl
@[simp] theorem latchRegRead_st : (latchRegRead a r s).st = s.st := rfl
@[simp] theorem latchRegRead_nFrames : (latchRegRead a r s).nFrames = 0#3 := rfl
@[simp] theorem latchRegRead_rsp : (latchRegRead a r s).rsp = busyRsp s.rsp := rfl
@[simp] theorem latchRegRead_params : (latchRegRead a r s).params = s.params := rfl
@[simp] theorem latchRegRead_port : (latchRegRead a r s).port = s.port := rfl
@[simp] theorem latchRegRead_inputs : (latchRegRead a r s).inputs = s.inputs := rfl
@[simp] theorem latchRegRead_trace : (latchRegRead a r s).trace = s.trace := rfl
@[simp] theorem latchRegRead_present : (latchRegRead a r s).present = s.present := rfl
@[simp] theorem latchRegRead_mem : (latchRegRead a r s).mem = s.mem := rfl

end

section
variable (a p : Byte) (d : Bool) (s : State)

@[simp] theorem latchSetOutput_ph : (latchSetOutput a p d s).ph = s.ph := rfl
@[simp] theorem latchSetOutput_sub : (latchSetOutput a p d s).sub = .settle := rfl
@[simp] theorem latchSetOutput_cmd : (latchSetOutput a p d s).cmd = { s.cmd with op := 2#2, addr := a, pin := p, d := d } := rfl
@[simp] theorem latchSetOutput_work : (latchSetOutput a p d s).work = s.work := rfl
@[simp] theorem latchSetOutput_tx : (latchSetOutput a p d s).tx = s.tx := rfl
@[simp] theorem latchSetOutput_rx : (latchSetOutput a p d s).rx = s.rx := rfl
@[simp] theorem latchSetOutput_rxHeld : (latchSetOutput a p d s).rxHeld = s.rxHeld := rfl
@[simp] theorem latchSetOutput_csN : (latchSetOutput a p d s).csN = s.csN := rfl
@[simp] theorem latchSetOutput_st : (latchSetOutput a p d s).st = s.st := rfl
@[simp] theorem latchSetOutput_nFrames : (latchSetOutput a p d s).nFrames = 0#3 := rfl
@[simp] theorem latchSetOutput_rsp : (latchSetOutput a p d s).rsp = busyRsp s.rsp := rfl
@[simp] theorem latchSetOutput_params : (latchSetOutput a p d s).params = s.params := rfl
@[simp] theorem latchSetOutput_port : (latchSetOutput a p d s).port = s.port := rfl
@[simp] theorem latchSetOutput_inputs : (latchSetOutput a p d s).inputs = s.inputs := rfl
@[simp] theorem latchSetOutput_trace : (latchSetOutput a p d s).trace = s.trace := rfl
@[simp] theorem latchSetOutput_present : (latchSetOutput a p d s).present = s.present := rfl
@[simp] theorem latchSetOutput_mem : (latchSetOutput a p d s).mem = s.mem := rfl

end


end Sys2Proof.Machine
end

