-- ==== Sys2Proof/Laws/Ops.lean ====
section
/-! SUPPORT. One lemma for each shared operation that says everything it can do, and the equations of a frame that is answered,
for the proofs about commands to cite. -/

namespace Sys2Proof.Machine

@[simp] theorem FrameRun.andThen_returned (s : State) (k : State → FrameRun) : (FrameRun.returned s).andThen k = k s := rfl
@[simp] theorem FrameRun.andThen_waiting (s : State) (k : State → FrameRun) : (FrameRun.waiting s).andThen k = .waiting s :=
  rfl
@[simp] theorem FrameRun.andThen_outside (k : State → FrameRun) : FrameRun.outside.andThen k = .outside := rfl
@[simp] theorem FrameRun.done_returned (s : State) (k : State → Host.Outcome State Fault Refusal) :
    (FrameRun.returned s).done k = k s := rfl
@[simp] theorem FrameRun.done_waiting (s : State) (k : State → Host.Outcome State Fault Refusal) :
    (FrameRun.waiting s).done k = .next s := rfl
@[simp] theorem FrameRun.done_outside (k : State → Host.Outcome State Fault Refusal) :
    FrameRun.outside.done k = .refused .outsideReferenceModel := rfl

/-- What can come of going on after a frame. -/
theorem FrameRun.andThen_eq_returned {f : FrameRun} {k : State → FrameRun} {t : State} (h : f.andThen k = .returned t) :
    ∃ s, f = .returned s ∧ k s = .returned t := by
  cases f with
  | returned s => exact ⟨s, rfl, h⟩
  | waiting s => cases h
  | outside => cases h

theorem FrameRun.andThen_eq_waiting {f : FrameRun} {k : State → FrameRun} {t : State} (h : f.andThen k = .waiting t) :
    f = .waiting t ∨ ∃ s, f = .returned s ∧ k s = .waiting t := by
  cases f with
  | returned s => exact .inr ⟨s, rfl, h⟩
  | waiting s => exact .inl h
  | outside => cases h

theorem FrameRun.done_eq_next {f : FrameRun} {k : State → Host.Outcome State Fault Refusal} {t : State}
    (h : f.done k = .next t) : f = .waiting t ∨ ∃ s, f = .returned s ∧ k s = .next t := by
  cases f with
  | returned s => exact .inr ⟨s, rfl, h⟩
  | waiting s => simp only [FrameRun.done_waiting, Host.Outcome.next.injEq] at h; exact .inl (h ▸ rfl)
  | outside => cases h

theorem FrameRun.done_eq_fault {f : FrameRun} {k : State → Host.Outcome State Fault Refusal} {e : Fault}
    (h : f.done k = .fault e) : ∃ s, f = .returned s ∧ k s = .fault e := by
  cases f with
  | returned s => exact ⟨s, rfl, h⟩
  | waiting s => cases h
  | outside => cases h

/-- Two states that agree on everything but the settle timer and the inputs still to come. -/
def SameButTime (s t : State) : Prop := ∃ st l, t = withTimer st (withInputs l s)

theorem SameButTime.refl (s : State) : SameButTime s s := ⟨s.st, s.inputs, rfl⟩

theorem SameButTime.trans {s t u : State} (h : SameButTime s t) (k : SameButTime t u) : SameButTime s u := by
  obtain ⟨st, l, rfl⟩ := h
  obtain ⟨st', l', rfl⟩ := k
  exact ⟨st', l', rfl⟩

theorem SameButTime.passTime (n : Nat) (s : State) : SameButTime s (passTime n s) := ⟨_, s.inputs, rfl⟩

theorem SameButTime.inputs (l : List Input) (s : State) : SameButTime s (withInputs l s) := ⟨s.st, l, rfl⟩

@[simp] theorem withInputs_self (s : State) : withInputs s.inputs s = s := rfl
@[simp] theorem withInputs_withInputs (l l' : List Input) (s : State) : withInputs l (withInputs l' s) = withInputs l s := rfl
@[simp] theorem settled_withInputs (l : List Input) (s : State) : (withInputs l s).settled = s.settled := rfl
@[simp] theorem settled_withPhase (ph : Phase) (s : State) : (withPhase ph s).settled = s.settled := rfl
@[simp] theorem settled_launch (tx : Bytes3) (s : State) : (launch tx s).settled = s.settled := rfl
@[simp] theorem settled_finish (c : Code) (r v : Option Byte) (s : State) : (finish c r v s).settled = s.settled := rfl
@[simp] theorem settled_newByte (p : Byte) (s : State) : (newByte p s).settled = s.settled := rfl
@[simp] theorem settled_directionValue (v : Byte) (s : State) : (directionValue v s).settled = s.settled := rfl
@[simp] theorem settled_verifyValue (v : Byte) (s : State) : (verifyValue v s).settled = s.settled := rfl
@[simp] theorem settled_latchRegWrite (a r v : Byte) (s : State) : (latchRegWrite a r v s).settled = s.settled := rfl
@[simp] theorem settled_latchRegRead (a r : Byte) (s : State) : (latchRegRead a r s).settled = s.settled := rfl
@[simp] theorem settled_latchSetOutput (a p : Byte) (d : Bool) (s : State) :
    (latchSetOutput a p d s).settled = s.settled := rfl
@[simp] theorem settled_selectHalf (h : Half) (b : BitVec 3) (s : State) : (selectHalf h b s).settled = s.settled := rfl
@[simp] theorem settled_takeWord (s : State) : (takeWord s).settled = s.settled := rfl
@[simp] theorem settled_resetBlock (s : State) : (resetBlock s).settled = true := rfl
@[simp] theorem settled_since (n : Nat) (s : State) : (withTimer (.since n) s).settled = Nat.ble s.params.tSettle n :=
  rfl
@[simp] theorem settled_answered (a : Answer) (m : Memory) (s : State) :
    (answered a m s).settled = Nat.ble s.params.tSettle 0 := rfl

/-- The settle wait: it returns only when T_SETTLE has elapsed, waits only when it has not, and changes nothing but the timer
and the inputs. -/
theorem awaitSettleOn_cases (l : List Input) (s : State) :
    (∃ t, awaitSettleOn l s = .returned t ∧ t.settled = true ∧ SameButTime s t) ∨
      (∃ t, awaitSettleOn l s = .waiting t ∧ t.settled = false ∧ SameButTime s t) := by
  induction l generalizing s with
  | nil =>
    cases h : s.settled
    · exact .inr ⟨withInputs [] s, by simp only [awaitSettleOn, h], h, .inputs _ s⟩
    · exact .inl ⟨withInputs [] s, by simp only [awaitSettleOn, h], h, .inputs _ s⟩
  | cons i rest ih =>
    cases h : s.settled
    · cases i with
      | reset draws => exact .inr ⟨withInputs (.reset draws :: rest) s, by simp only [awaitSettleOn, h], h, .inputs _ s⟩
      | elapse t =>
        have hp := SameButTime.passTime t s
        simp only [awaitSettleOn, h]
        rcases ih (passTime t s) with ⟨u, h1, h2, h3⟩ | ⟨u, h1, h2, h3⟩
        · exact .inl ⟨u, h1, h2, hp.trans h3⟩
        · exact .inr ⟨u, h1, h2, hp.trans h3⟩
      | oracle a => simp only [awaitSettleOn, h]; exact ih s
      | device f => simp only [awaitSettleOn, h]; exact ih s
      | deviceErr f => simp only [awaitSettleOn, h]; exact ih s
      | lateAnswer f => simp only [awaitSettleOn, h]; exact ih s
    · exact .inl ⟨withInputs (i :: rest) s, by simp only [awaitSettleOn, h], h, .inputs _ s⟩

theorem awaitSettle_returned {s t : State} (h : awaitSettle s = .returned t) : t.settled = true ∧ SameButTime s t := by
  rcases awaitSettleOn_cases s.inputs s with ⟨u, h1, h2⟩ | ⟨u, h1, -⟩ <;> rw [awaitSettle, h1] at h <;> cases h
  exact h2

theorem awaitSettle_waiting {s t : State} (h : awaitSettle s = .waiting t) : t.settled = false ∧ SameButTime s t := by
  rcases awaitSettleOn_cases s.inputs s with ⟨u, h1, -⟩ | ⟨u, h1, h2⟩ <;> rw [awaitSettle, h1] at h <;> cases h
  exact h2

theorem awaitSettle_ne_outside (s : State) : awaitSettle s ≠ .outside := by
  intro h
  rcases awaitSettleOn_cases s.inputs s with ⟨u, h1, -⟩ | ⟨u, h1, -⟩ <;> rw [awaitSettle, h1] at h <;> cases h

/-- The settle wait is over at once when nothing is owed. -/
theorem awaitSettle_of_settled {s : State} (h : s.settled = true) : awaitSettle s = .returned s := by
  have e : ∀ l, l = s.inputs → awaitSettleOn l s = .returned s := by
    intro l hl
    cases l with
    | nil => simp only [awaitSettleOn, h, hl, withInputs_self]
    | cons i rest => simp only [awaitSettleOn, h, hl, withInputs_self]
  exact e _ rfl

/-- The wait for the transport: it returns with the first answer among the inputs and waits when there is none. -/
theorem awaitAnswerOn_cases (l : List Input) (s : State) :
    (∃ i a m l', respond s.params s.present s.mem s.tx i = .answer a m ∧
        awaitAnswerOn l s = .returned (answered a m (withInputs l' s))) ∨
      (∃ l', awaitAnswerOn l s = .waiting (withInputs l' s)) ∨ awaitAnswerOn l s = .outside := by
  induction l with
  | nil => exact .inr (.inl ⟨[], rfl⟩)
  | cons i rest ih =>
    cases h : respond s.params s.present s.mem s.tx i with
    | answer a m => exact .inl ⟨i, a, m, rest, h, by simp only [awaitAnswerOn, h]⟩
    | outside => exact .inr (.inr (by simp only [awaitAnswerOn, h]))
    | silent =>
      cases hr : isReset i with
      | true => exact .inr (.inl ⟨_, by simp only [awaitAnswerOn, h, hr]; rfl⟩)
      | false => simp only [awaitAnswerOn, h, hr]; exact ih

theorem awaitAnswer_returned {s t : State} (h : awaitAnswer s = .returned t) :
    ∃ i a m l, respond s.params s.present s.mem s.tx i = .answer a m ∧ t = answered a m (withInputs l s) := by
  rcases awaitAnswerOn_cases s.inputs s with ⟨i, a, m, l, h1, h2⟩ | ⟨l, h1⟩ | h1 <;>
    rw [awaitAnswer] at h
  · rw [h2] at h; cases h; exact ⟨i, a, m, l, h1, rfl⟩
  · rw [h1] at h; cases h
  · rw [h1] at h; cases h

theorem awaitAnswer_waiting {s t : State} (h : awaitAnswer s = .waiting t) : ∃ l, t = (withInputs l s) := by
  rcases awaitAnswerOn_cases s.inputs s with ⟨i, a, m, l, h1, h2⟩ | ⟨l, h1⟩ | h1 <;>
    rw [awaitAnswer] at h
  · rw [h2] at h; cases h
  · rw [h1] at h; cases h; exact ⟨l, rfl⟩
  · rw [h1] at h; cases h

/-- A frame that returned: some input answered it, and T_SETTLE has elapsed since. -/
theorem resumeTransfer_returned {s t : State} (h : resumeTransfer s = .returned t) :
    ∃ i a m l, respond s.params s.present s.mem s.tx i = .answer a m ∧ t.settled = true ∧
      SameButTime (answered a m (withInputs l s)) t := by
  obtain ⟨u, hu, ht⟩ := FrameRun.andThen_eq_returned h
  obtain ⟨i, a, m, l, hr, rfl⟩ := awaitAnswer_returned hu
  exact ⟨i, a, m, l, hr, awaitSettle_returned ht⟩

/-- A frame that waits: no answer yet, or its settle time has not elapsed. -/
theorem resumeTransfer_waiting {s t : State} (h : resumeTransfer s = .waiting t) :
    (∃ l, t = (withInputs l s)) ∨
      ∃ i a m l, respond s.params s.present s.mem s.tx i = .answer a m ∧ t.settled = false ∧
        SameButTime (answered a m (withInputs l s)) t := by
  rcases FrameRun.andThen_eq_waiting h with hu | ⟨u, hu, ht⟩
  · exact .inl (awaitAnswer_waiting hu)
  · obtain ⟨i, a, m, l, hr, rfl⟩ := awaitAnswer_returned hu
    exact .inr ⟨i, a, m, l, hr, awaitSettle_waiting ht⟩

/-- The frame procedure that returned. -/
theorem frame_returned {tx : Bytes3} {s t : State} (h : frame tx s = .returned t) :
    s.csN = true ∧ ∃ u, u.settled = true ∧ SameButTime s u ∧ resumeTransfer (launch tx u) = .returned t := by
  unfold frame at h
  cases hc : s.csN <;> rw [hc] at h
  · cases h
  · obtain ⟨u, hu, ht⟩ := FrameRun.andThen_eq_returned h
    obtain ⟨h1, h2⟩ := awaitSettle_returned hu
    exact ⟨rfl, u, h1, h2, ht⟩

/-- The frame procedure that waits: for a frame on the bus, for the settle time before it, or within the frame. -/
theorem frame_waiting {tx : Bytes3} {s t : State} (h : frame tx s = .waiting t) :
    (s.csN = false ∧ t = s) ∨ (s.csN = true ∧ t.settled = false ∧ SameButTime s t) ∨
      (s.csN = true ∧ ∃ u, u.settled = true ∧ SameButTime s u ∧ resumeTransfer (launch tx u) = .waiting t) := by
  unfold frame at h
  cases hc : s.csN <;> rw [hc] at h
  · cases h; exact .inl ⟨rfl, rfl⟩
  · rcases FrameRun.andThen_eq_waiting h with hu | ⟨u, hu, ht⟩
    · exact .inr (.inl ⟨rfl, awaitSettle_waiting hu⟩)
    · obtain ⟨h1, h2⟩ := awaitSettle_returned hu
      exact .inr (.inr ⟨rfl, u, h1, h2, ht⟩)

/-- A frame begun with nothing owed and answered by the first input. -/
theorem frame_of_answer {tx : Bytes3} {s : State} {i : Input} {rest : List Input} {a : Answer} {m : Memory}
    (hc : s.csN = true) (hs : s.settled = true) (hi : s.inputs = i :: rest)
    (hr : respond s.params s.present s.mem tx i = .answer a m) :
    frame tx s = awaitSettle (answered a m (withInputs rest (launch tx s))) := by
  unfold frame
  rw [hc, awaitSettle_of_settled hs]
  simp only [FrameRun.andThen_returned, awaitAnswer, launch_inputs, hi, awaitAnswerOn, launch_params, launch_present,
    launch_mem, launch_tx, hr]

/-- A frame begun with nothing owed while the transport has not answered: it is with the transport. -/
theorem frame_of_silence {tx : Bytes3} {s : State} (hc : s.csN = true) (hs : s.settled = true) (hi : s.inputs = []) :
    frame tx s = .waiting (launch tx s) := by
  unfold frame
  rw [hc, awaitSettle_of_settled hs]
  have e : withInputs [] (launch tx s) = launch tx s := by rw [← hi]; rfl
  simp only [FrameRun.andThen_returned, awaitAnswer, launch_inputs, hi, awaitAnswerOn, FrameRun.andThen_waiting, e]

theorem awaitSettleOn_of_settled (l : List Input) {s : State} (h : s.settled = true) :
    awaitSettleOn l s = .returned (withInputs l s) := by
  cases l <;> simp only [awaitSettleOn, h]

/-- T_SETTLE is a positive duration (R6). -/
theorem tSettle_pos (p : Params) : 0 < p.tSettle := Nat.succ_pos _

/-- The settle wait after an answer, when time enough passes next. -/
theorem awaitSettle_after_answer (a : Answer) (m : Memory) (s : State) (n : Nat) (rest : List Input)
    (hn : s.params.tSettle ≤ n) :
    awaitSettle (answered a m (withInputs (.elapse n :: rest) s)) =
      .returned (withTimer (.since n) (answered a m (withInputs rest s))) := by
  have h0 : Nat.ble s.params.tSettle 0 = false := by
    have := tSettle_pos s.params
    rw [Bool.eq_false_iff, Ne, Nat.ble_eq]; omega
  have h1 : (passTime n (answered a m (withInputs (.elapse n :: rest) s))).settled = true := by
    simp [passTime, hn]
  simp only [awaitSettle, answered_inputs, withInputs_inputs, awaitSettleOn, settled_answered, withInputs_params]
  rw [h0]
  simp only
  rw [awaitSettleOn_of_settled rest h1]
  simp only [passTime, answered_st, laterTimer_since, Nat.zero_add]
  rfl

/-- What no part of the frame procedure touches: the command in progress, RSP, the parameters, the host's words, and which
devices there are. -/
structure SameCommand (s t : State) : Prop where
  ph : t.ph = s.ph
  cmd : t.cmd = s.cmd
  work : t.work = s.work
  rsp : t.rsp = s.rsp
  params : t.params = s.params
  port : t.port = s.port
  present : t.present = s.present

theorem SameCommand.refl (s : State) : SameCommand s s := ⟨rfl, rfl, rfl, rfl, rfl, rfl, rfl⟩

theorem SameCommand.trans {s t u : State} (h : SameCommand s t) (k : SameCommand t u) : SameCommand s u :=
  ⟨k.ph.trans h.ph, k.cmd.trans h.cmd, k.work.trans h.work, k.rsp.trans h.rsp, k.params.trans h.params,
    k.port.trans h.port, k.present.trans h.present⟩

theorem SameButTime.sameCommand {s t : State} (h : SameButTime s t) : SameCommand s t := by
  obtain ⟨st, l, rfl⟩ := h
  exact ⟨rfl, rfl, rfl, rfl, rfl, rfl, rfl⟩

theorem launch_sameCommand (tx : Bytes3) (s : State) : SameCommand s (launch tx s) := ⟨rfl, rfl, rfl, rfl, rfl, rfl, rfl⟩

theorem answered_sameCommand (a : Answer) (m : Memory) (l : List Input) (s : State) :
    SameCommand s (answered a m (withInputs l s)) := ⟨rfl, rfl, rfl, rfl, rfl, rfl, rfl⟩

/-- The frame `tx` of `s` has been answered in `t`: the transport's answer and its effects (R156). -/
structure Answered (tx : Bytes3) (n : BitVec 3) (s t : State) : Prop where
  same : SameCommand s t
  csN : t.csN = true
  sub : t.sub = .settle
  sent : t.tx = tx
  nFrames : t.nFrames = n
  answer : ∃ i a m, respond s.params s.present s.mem tx i = .answer a m ∧ t.trace = s.trace ++ [⟨tx, a⟩] ∧ t.mem = m ∧
    t.rxHeld = isOk a ∧ t.rx = receivedBytes a s.rx

/-- The frame `tx` of `s` is with the transport in `t`. -/
structure Launched (tx : Bytes3) (n : BitVec 3) (s t : State) : Prop where
  same : SameCommand s t
  csN : t.csN = false
  sub : t.sub = .xfer
  sent : t.tx = tx
  nFrames : t.nFrames = n
  trace : t.trace = s.trace
  mem : t.mem = s.mem

theorem answered_of_time {s t : State} {a : Answer} {m : Memory} {l : List Input} {i : Input}
    (hr : respond s.params s.present s.mem s.tx i = .answer a m) (ht : SameButTime (answered a m (withInputs l s)) t) :
    Answered s.tx s.nFrames s t := by
  obtain ⟨st, l', rfl⟩ := ht
  exact ⟨⟨rfl, rfl, rfl, rfl, rfl, rfl, rfl⟩, rfl, rfl, rfl, rfl, i, a, m, hr, rfl, rfl, rfl, rfl⟩

/-- The transfer that returns has been answered, and its settle time has elapsed. -/
theorem resumeTransfer_spec {s t : State} (h : resumeTransfer s = .returned t) :
    t.settled = true ∧ Answered s.tx s.nFrames s t := by
  obtain ⟨i, a, m, l, hr, hs, ht⟩ := resumeTransfer_returned h
  exact ⟨hs, answered_of_time hr ht⟩

/-- The transfer that waits is unanswered, or its settle time has not elapsed. -/
theorem resumeTransfer_spec_waiting {s t : State} (h : resumeTransfer s = .waiting t) :
    (∃ l, t = withInputs l s) ∨ (t.settled = false ∧ Answered s.tx s.nFrames s t) := by
  rcases resumeTransfer_waiting h with h1 | ⟨i, a, m, l, hr, hs, ht⟩
  · exact .inl h1
  · exact .inr ⟨hs, answered_of_time hr ht⟩

theorem answered_after_launch {tx : Bytes3} {s u t : State} (hu : SameButTime s u)
    (h : Answered (launch tx u).tx (launch tx u).nFrames (launch tx u) t) : Answered tx (s.nFrames + 1#3) s t := by
  obtain ⟨st, l, rfl⟩ := hu
  obtain ⟨h1, h2, h3, h4, h5, i, a, m, h6, h7, h8, h9, h10⟩ := h
  exact ⟨⟨h1.ph, h1.cmd, h1.work, h1.rsp, h1.params, h1.port, h1.present⟩, h2, h3, h4, h5, i, a, m, h6, h7, h8, h9, h10⟩

/-- Everything a frame that returns does. -/
theorem frame_spec {tx : Bytes3} {s t : State} (h : frame tx s = .returned t) :
    s.csN = true ∧ t.settled = true ∧ Answered tx (s.nFrames + 1#3) s t := by
  obtain ⟨hc, u, -, hu, ht⟩ := frame_returned h
  obtain ⟨hs, ha⟩ := resumeTransfer_spec ht
  exact ⟨hc, hs, answered_after_launch hu ha⟩

/-- Everything a frame that waits can be waiting for: a frame on the bus, the settle time before it, the transport, or the
settle time after it. -/
theorem frame_spec_waiting {tx : Bytes3} {s t : State} (h : frame tx s = .waiting t) :
    (s.csN = false ∧ t = s) ∨ (s.csN = true ∧ s.settled = false ∧ t.settled = false ∧ SameButTime s t) ∨
      (s.csN = true ∧ Launched tx (s.nFrames + 1#3) s t) ∨
        (s.csN = true ∧ t.settled = false ∧ Answered tx (s.nFrames + 1#3) s t) := by
  rcases frame_waiting h with h1 | ⟨hc, h1, h2⟩ | ⟨hc, u, -, hu, ht⟩
  · exact .inl h1
  · refine .inr (.inl ⟨hc, ?_, h1, h2⟩)
    cases hs : s.settled
    · rfl
    · have e : frame tx s = (awaitAnswer (launch tx s)).andThen awaitSettle := by
        unfold frame; rw [hc, awaitSettle_of_settled hs]; rfl
      rw [e] at h
      rcases resumeTransfer_spec_waiting h with ⟨l, rfl⟩ | ⟨-, ha⟩
      · rw [settled_withInputs, settled_launch, hs] at h1; exact absurd h1 (by decide)
      · obtain ⟨st, l, rfl⟩ := h2
        obtain ⟨i, a, m, -, htr, -⟩ := ha.answer
        simp only [launch_trace, withTimer_trace, withInputs_trace] at htr
        exact absurd (congrArg List.length htr) (by simp)
  · rcases resumeTransfer_spec_waiting ht with ⟨l, rfl⟩ | ⟨hs, ha⟩
    · obtain ⟨st, l', rfl⟩ := hu
      exact .inr (.inr (.inl ⟨hc, ⟨rfl, rfl, rfl, rfl, rfl, rfl, rfl⟩, rfl, rfl, rfl, rfl, rfl, rfl⟩))
    · exact .inr (.inr (.inr ⟨hc, hs, answered_after_launch hu ha⟩))

end Sys2Proof.Machine
end

