-- ==== Sys2Proof/Laws/PerInstr.lean ====
section
/-! SUPPORT. The per-instruction family `RowSelected`: a well-formed instruction's encoding selects its own row of the opcode
table, by the table's mask and match (30_encoding.md R92, R96, R97). -/

namespace Sys2Proof.Laws.RowSelected

/-- The encoding of a well-formed instruction selects the instruction's row. -/
def Statement (i : Instr) : Prop := i.wellFormed = true → i.row.selects (encode i).tableWord = true

theorem evenAddress {i : Instr} (h : i.wellFormed = true) : i.addr.getLsbD 0 = false := by
  simpa [Instr.wellFormed] using h

theorem regWrite (a r v : Byte) : Statement (.regWrite a r v) := by
  intro h
  have ha : a.getLsbD 0 = false := evenAddress h
  simp only [TableRow.selects, Instr.row, encode, Encoded.tableWord, beq_iff_eq]
  apply BitVec.eq_of_getLsbD_eq
  intro i hi
  interval_cases i <;> simp_all [commandWord]

theorem regRead (a r : Byte) : Statement (.regRead a r) := by
  intro h
  have ha : a.getLsbD 0 = false := evenAddress h
  simp only [TableRow.selects, Instr.row, encode, Encoded.tableWord, beq_iff_eq]
  apply BitVec.eq_of_getLsbD_eq
  intro i hi
  interval_cases i <;> simp_all [commandWord]

theorem setOutput (a p : Byte) (d : Bool) : Statement (.setOutput a p d) := by
  intro h
  have ha : a.getLsbD 0 = false := evenAddress h
  simp only [TableRow.selects, Instr.row, encode, Encoded.tableWord, beq_iff_eq]
  apply BitVec.eq_of_getLsbD_eq
  intro i hi
  cases d <;> interval_cases i <;> simp_all [commandWord]

theorem writeFrame (a r v : Byte) : Statement (.writeFrame a r v) := by
  intro _
  simp only [TableRow.selects, Instr.row, encode, Encoded.tableWord, beq_iff_eq]
  apply BitVec.eq_of_getLsbD_eq
  intro i hi
  interval_cases i <;> simp [Bytes3.word]

theorem readFrame (a r : Byte) : Statement (.readFrame a r) := by
  intro _
  simp only [TableRow.selects, Instr.row, encode, Encoded.tableWord, beq_iff_eq, Config.dummy]
  apply BitVec.eq_of_getLsbD_eq
  intro i hi
  interval_cases i <;> simp [Bytes3.word]

end Sys2Proof.Laws.RowSelected
end

