-- ==== Sys2Proof/Laws/Run.lean ====
section
/-! SUPPORT. What a step can do, said once (`step_eq_next`), a principle for predicates that everything a command does keeps
(`Kept`), and the frame procedure run to its end. The proofs about runs cite these and unfold no meaning. -/

namespace Sys2Proof.Machine

/-- A frame begun with nothing owed, answered by the next input, and followed by time enough: what it leaves. -/
theorem frame_of_reply {tx : Bytes3} {s : State} {i : Input} {rest : List Input} {a : Answer} {m : Memory} {n : Nat}
    (hc : s.csN = true) (hs : s.settled = true) (hn : SettlesIn s n) (hi : s.inputs = i :: .elapse n :: rest)
    (hr : Replies s s.mem tx i a m) :
    frame tx s = .returned (withTimer (.since n) (answered a m (withInputs rest (launch tx s)))) := by
  rw [frame_of_answer hc hs hi hr]
  exact awaitSettle_after_answer a m (launch tx s) n rest hn

/-- A frame, whatever becomes of it, leaves the command in progress, RSP, the parameters and the host's words alone. -/
theorem frame_sameCommand {tx : Bytes3} {s t : State} (h : frame tx s = .returned t ∨ frame tx s = .waiting t) :
    SameCommand s t := by
  rcases h with h | h
  · exact (frame_spec h).2.2.same
  · rcases frame_spec_waiting h with ⟨-, rfl⟩ | ⟨-, -, -, h⟩ | ⟨-, h⟩ | ⟨-, -, h⟩
    · exact .refl _
    · exact h.sameCommand
    · exact h.same
    · exact h.same

theorem resumeTransfer_sameCommand {s t : State} (h : resumeTransfer s = .returned t ∨ resumeTransfer s = .waiting t) :
    SameCommand s t := by
  rcases h with h | h
  · exact (resumeTransfer_spec h).2.same
  · rcases resumeTransfer_spec_waiting h with ⟨l, rfl⟩ | ⟨-, h⟩
    · exact ⟨rfl, rfl, rfl, rfl, rfl, rfl, rfl⟩
    · exact h.same

theorem awaitSettle_sameButTime {s t : State} (h : awaitSettle s = .returned t ∨ awaitSettle s = .waiting t) :
    SameButTime s t := by
  rcases h with h | h
  · exact (awaitSettle_returned h).2
  · exact (awaitSettle_waiting h).2

/-- A predicate on states that each thing a command does keeps. -/
structure Kept (R : State → Prop) : Prop where
  frame : ∀ {tx s t}, R s → (frame tx s = .returned t ∨ frame tx s = .waiting t) → R t
  resume : ∀ {s t}, R s → (resumeTransfer s = .returned t ∨ resumeTransfer s = .waiting t) → R t
  settle : ∀ {s t}, R s → (awaitSettle s = .returned t ∨ awaitSettle s = .waiting t) → R t
  finish : ∀ {s} c r v, R s → R (finish c r v s)
  phase : ∀ {s} p, R s → R (withPhase p s)
  newByte : ∀ {s} v, R s → R (newByte v s)
  direction : ∀ {s} v, R s → R (directionValue v s)
  verify : ∀ {s} v, R s → R (verifyValue v s)
  select : ∀ {s} h b, R s → R (selectHalf h b s)
  latchRegWrite : ∀ {s} a r v, R s → R (latchRegWrite a r v s)
  latchRegRead : ∀ {s} a r, R s → R (latchRegRead a r s)
  latchSetOutput : ∀ {s} a p d, R s → R (latchSetOutput a p d s)

section
variable {R : State → Prop} {s t : State}

theorem Kept.of_frame (K : Kept R) {tx : Bytes3} {k : State → Host.Outcome State Fault Refusal} (h : R s)
    (hk : ∀ u, R u → k u = .next t → R t) (e : (Machine.frame tx s).done k = .next t) : R t := by
  rcases FrameRun.done_eq_next e with h1 | ⟨u, h1, hu⟩
  · exact K.frame h (.inr h1)
  · exact hk u (K.frame h (.inl h1)) hu

theorem Kept.of_afterRegWrite (K : Kept R) (h : R s) (e : afterRegWrite s = .next t) : R t := by
  unfold afterRegWrite at e
  split at e <;> cases e <;> exact K.finish _ _ _ h

theorem Kept.of_afterRegRead (K : Kept R) (h : R s) (e : afterRegRead s = .next t) : R t := by
  unfold afterRegRead at e
  split at e <;> cases e <;> exact K.finish _ _ _ h

theorem Kept.of_afterVerify (K : Kept R) (h : R s) (e : afterVerify s = .next t) : R t := by
  unfold afterVerify at e
  split at e <;> cases e
  · exact K.finish _ _ _ (K.verify _ h)
  · exact K.finish _ _ _ h

theorem Kept.of_afterLatchWrite (K : Kept R) (h : R s) (e : afterLatchWrite s = .next t) : R t := by
  unfold afterLatchWrite at e
  split at e
  · cases e; exact K.finish _ _ _ h
  · exact K.of_frame (K.phase _ h) (fun u hu => K.of_afterVerify hu) e
  · cases e; exact K.finish _ _ _ h

theorem Kept.of_afterLatchRead (K : Kept R) (h : R s) (e : afterLatchRead s = .next t) : R t := by
  unfold afterLatchRead at e
  split at e
  · exact K.of_frame (K.newByte _ h) (fun u hu => K.of_afterLatchWrite hu) e
  · cases e; exact K.finish _ _ _ h

theorem Kept.of_afterDirection (K : Kept R) (h : R s) (e : afterDirection s = .next t) : R t := by
  unfold afterDirection at e
  split at e
  · split at e
    · exact K.of_frame (K.phase _ (K.direction _ h)) (fun u hu => K.of_afterLatchRead hu) e
    · cases e; exact K.finish _ _ _ (K.direction _ h)
  · cases e; exact K.finish _ _ _ h

theorem Kept.of_afterFrame (K : Kept R) (h : R s) (e : afterFrame s = .next t) : R t := by
  unfold afterFrame at e
  split at e
  · cases e
  · split at e
    · exact K.of_afterRegWrite h e
    · exact K.of_afterRegRead h e
    · cases e
    · cases e
  · exact K.of_afterDirection h e
  · exact K.of_afterLatchRead h e
  · exact K.of_afterLatchWrite h e
  · exact K.of_afterVerify h e

/-- An instruction keeps what everything it does keeps. -/
theorem Kept.of_exec (K : Kept R) {i : Instr} (h : R s) (e : exec i s = .next t) : R t := by
  cases i with
  | regWrite a r v =>
    simp only [exec, execRegWrite] at e
    split at e
    · cases e; exact h
    · exact K.of_frame (K.latchRegWrite _ _ _ h) (fun u hu => K.of_afterRegWrite hu) e
  | regRead a r =>
    simp only [exec, execRegRead] at e
    split at e
    · cases e; exact h
    · exact K.of_frame (K.latchRegRead _ _ h) (fun u hu => K.of_afterRegRead hu) e
  | setOutput a p d =>
    simp only [exec, execSetOutput] at e
    split at e
    · cases e; exact h
    · cases e; exact K.finish _ _ _ (K.latchSetOutput _ _ _ h)
    · exact K.of_frame (K.select _ _ (K.latchSetOutput _ _ _ h)) (fun u hu => K.of_afterDirection hu) e
  | writeFrame a r v => exact K.of_frame h (fun u hu hk => by cases hk; exact hu) e
  | readFrame a r => exact K.of_frame h (fun u hu hk => by cases hk; exact hu) e

/-- A command in progress keeps what everything it does keeps. -/
theorem Kept.of_stepBusy (K : Kept R) (h : R s) (e : stepBusy s = .next t) : R t := by
  unfold stepBusy at e
  split at e
  · exact K.of_exec h e
  · unfold continueCommand at e
    split at e
    · cases e
    · rcases FrameRun.done_eq_next e with h1 | ⟨u, h1, hu⟩
      · exact K.resume h (.inr h1)
      · exact K.of_afterFrame (K.resume h (.inl h1)) hu
    · rcases FrameRun.done_eq_next e with h1 | ⟨u, h1, hu⟩
      · exact K.settle h (.inr h1)
      · exact K.of_afterFrame (K.settle h (.inl h1)) hu

end

/-- Everything a step that goes on can be: a reset; a move of the command in progress; an accepted command; an accepted illegal
word; a move of the world while the block is idle; or nothing at all. -/
theorem step_eq_next {s t : State} (h : step s = .next t) :
    (∃ draws rest, s.inputs = .reset draws :: rest ∧ t = hostReset draws (withInputs rest s)) ∨
    (noResetNext s.inputs = true ∧ s.rsp.busy = true ∧ stepBusy s = .next t) ∨
    (noResetNext s.inputs = true ∧ s.rsp.busy = false ∧
      ∃ w ws i, s.port = w :: ws ∧ decodeCommand w = .ok i ∧ exec i (takeWord s) = .next t) ∨
    (noResetNext s.inputs = true ∧ s.rsp.busy = false ∧
      ∃ w ws, s.port = w :: ws ∧ (∀ i, decodeCommand w ≠ .ok i) ∧ t = illegalCommand (takeWord s)) ∨
    (s.rsp.busy = false ∧ s.port = [] ∧
      ∃ i rest, s.inputs = i :: rest ∧ isReset i = false ∧ t = idleInput i (withInputs rest s)) ∨
    (s.rsp.busy = false ∧ s.port = [] ∧ s.inputs = [] ∧ t = s) := by
  have nr : (∀ (draws : List CutDraw) (rest : List Input), s.inputs = .reset draws :: rest → False) →
      noResetNext s.inputs = true := by
    intro hh
    cases hi : s.inputs with
    | nil => rfl
    | cons i r => cases i <;> first | rfl | exact absurd hi (fun h => hh _ _ h)
  unfold step stepMachine at h
  split at h
  · next hi => cases h; exact .inl ⟨_, _, hi, rfl⟩
  · next hb hr => exact .inr (.inl ⟨nr hr, hb, h⟩)
  · next hb hr =>
    unfold stepIdle at h
    split at h
    · next w ws hp =>
      split at h
      · next i hi =>
        refine .inr (.inr (.inl ⟨nr hr, hb, w, ws, i, hp, ?_, h⟩))
        unfold portInstr at hi
        cases hd : decodeCommand w <;> rw [hd] at hi <;> cases hi
        rfl
      · next hi =>
        cases h
        refine .inr (.inr (.inr (.inl ⟨nr hr, hb, w, ws, hp, ?_, rfl⟩)))
        intro i hd
        unfold portInstr at hi
        rw [hd] at hi
        cases hi
    · next hp =>
      split at h
      · next i rest hi =>
        cases h
        refine .inr (.inr (.inr (.inr (.inl ⟨hb, hp, i, rest, hi, ?_, rfl⟩))))
        cases i <;> first | rfl | exact absurd hi (fun h => hr _ _ h)
      · next hi => cases h; exact .inr (.inr (.inr (.inr (.inr ⟨hb, hp, hi, rfl⟩))))

/-- What no reset touches. -/
theorem hostReset_keeps (draws : List CutDraw) (s : State) :
    (hostReset draws s).params = s.params ∧ (hostReset draws s).port = s.port ∧
      (hostReset draws s).present = s.present ∧ (hostReset draws s).trace = s.trace ∧
      (hostReset draws s).inputs = s.inputs := by
  unfold hostReset
  split <;> exact ⟨rfl, rfl, rfl, rfl, rfl⟩

/-- A move of the world that finds the block idle changes nothing but the settle timer. -/
theorem idleInput_sameButTime {i : Input} (s : State) (h : isReset i = false) : SameButTime s (idleInput i s) := by
  cases i with
  | reset draws => cases h
  | elapse n => exact SameButTime.passTime n s
  | _ => exact SameButTime.refl s

/-- Going on after a frame faults only where what follows the frame does. -/
theorem FrameRun.done_ne_fault {f : FrameRun} {k : State → Host.Outcome State Fault Refusal} {e : Fault}
    (hk : ∀ u, f = .returned u → k u ≠ .fault e) : f.done k ≠ .fault e := by
  cases f with
  | returned u => exact hk u rfl
  | waiting u => intro h; cases h
  | outside => intro h; cases h

theorem afterRegWrite_ne_fault (s : State) (e : Fault) : afterRegWrite s ≠ .fault e := by
  unfold afterRegWrite
  split <;> (intro h; cases h)

theorem afterRegRead_ne_fault (s : State) (e : Fault) : afterRegRead s ≠ .fault e := by
  unfold afterRegRead
  split <;> (intro h; cases h)

theorem afterVerify_ne_fault (s : State) (e : Fault) : afterVerify s ≠ .fault e := by
  unfold afterVerify
  split <;> (intro h; cases h)

theorem afterLatchWrite_ne_fault (s : State) (e : Fault) : afterLatchWrite s ≠ .fault e := by
  unfold afterLatchWrite
  split
  · intro h; cases h
  · exact FrameRun.done_ne_fault fun u _ => afterVerify_ne_fault u e
  · intro h; cases h

theorem afterLatchRead_ne_fault (s : State) (e : Fault) : afterLatchRead s ≠ .fault e := by
  unfold afterLatchRead
  split
  · exact FrameRun.done_ne_fault fun u _ => afterLatchWrite_ne_fault u e
  · intro h; cases h

theorem afterDirection_ne_fault (s : State) (e : Fault) : afterDirection s ≠ .fault e := by
  unfold afterDirection
  split
  · split
    · exact FrameRun.done_ne_fault fun u _ => afterLatchRead_ne_fault u e
    · intro h; cases h
  · intro h; cases h

/-- The settle wait when the time still owed passes next. -/
theorem awaitSettle_of_elapse {s : State} {u n : Nat} {rest : List Input} (hs : s.settled = false) (hu : s.st = .since u)
    (hi : s.inputs = .elapse n :: rest) (hn : SettlesIn s (u + n)) :
    awaitSettle s = .returned (withTimer (.since (u + n)) (withInputs rest s)) := by
  have h1 : (passTime n s).settled = true := by
    simp only [State.settled, passTime_st, hu, laterTimer_since, passTime_params, Nat.ble_eq]
    exact hn
  simp only [awaitSettle, hi, awaitSettleOn, hs]
  rw [awaitSettleOn_of_settled rest h1]
  simp only [passTime, hu, laterTimer_since]
  rfl

/-- A busy block whose first frame is not due goes on with its command. -/
theorem step_of_waiting {s : State} (hb : s.rsp.busy = true) (hn : noResetNext s.inputs = true) (hd : s.frameDue = false) :
    step s = continueCommand s := by
  unfold step stepMachine
  split
  · next h => rw [h] at hn; cases hn
  · unfold stepBusy; rw [hd]
  · next h _ => rw [hb] at h; cases h

/-- A command whose wait is over: the step is the rest of the command, from a state in which its frame has come back and its
settle time has passed. -/
theorem step_of_resumed {s : State} {ph : Phase} {a : Answer} {events : List FrameEvent} {mem : Memory} {rest : List Input}
    (hph : ph ≠ .idle) (h : Resumed s ph a events mem rest) :
    ∃ u, step s = afterFrame u ∧ u.csN = true ∧ u.settled = true ∧ SameCommand s u ∧ u.tx = s.tx ∧
      u.nFrames = framesAt ph ∧ u.trace = s.trace ++ events ∧ u.mem = mem ∧ u.inputs = rest ∧ lastAnswer u = a := by
  obtain ⟨hinv, rfl, hw⟩ := h
  have hb : s.rsp.busy = true := hinv.1.mpr hph
  have hcount := hinv.2.2.2.1 hph
  rcases hw with ⟨hsub, ⟨i, n, hi, hn, hr⟩, rfl⟩ | ⟨hsub, hn0, rfl, rfl, rfl, hset⟩
  · have hnr : noResetNext s.inputs = true := by
      rw [hi]
      cases i with
      | reset d => cases hr
      | _ => rfl
    have hd : s.frameDue = false := by simp [State.frameDue, hsub]
    have hfr : s.nFrames = framesAt s.ph := by
      rcases hcount with h | ⟨-, h, -⟩
      · exact h
      · rw [hsub] at h; cases h
    have he : resumeTransfer s = .returned (withTimer (.since n) (answered a mem (withInputs rest s))) := by
      have := awaitSettle_after_answer a mem s n rest hn
      simp only [resumeTransfer, awaitAnswer, hi, awaitAnswerOn]
      rw [show respond s.params s.present s.mem s.tx i = .answer a mem from hr]
      exact this
    refine ⟨withTimer (.since n) (answered a mem (withInputs rest s)), ?_, rfl, ?_, ⟨rfl, rfl, rfl, rfl, rfl, rfl, rfl⟩, rfl, hfr,
      rfl, rfl, rfl, ?_⟩
    · rw [step_of_waiting hb hnr hd]
      unfold continueCommand
      split
      · next h => exact absurd h hph
      · rw [he]; rfl
      · next h _ => rw [hsub] at h; cases h
    · simp only [State.settled, withTimer_st, withTimer_params, answered_params, withInputs_params, Nat.ble_eq]
      exact hn
    · cases a <;> rfl
  · have hd : s.frameDue = false := by simp [State.frameDue, hn0]
    have hfr : s.nFrames = framesAt s.ph := by
      rcases hcount with h | ⟨h, -⟩
      · exact h
      · exact absurd h hn0
    have hcs : s.csN = true := by
      cases hc : s.csN
      · have := hinv.2.1.mp hc; rw [hsub] at this; cases this.2
      · rfl
    have hgo : ∀ u, awaitSettle s = .returned u → noResetNext s.inputs = true → step s = afterFrame u := by
      intro u hu hnr
      rw [step_of_waiting hb hnr hd]
      unfold continueCommand
      split
      · next h => exact absurd h hph
      · next h _ => rw [hsub] at h; cases h
      · rw [hu]; rfl
    rcases hset with ⟨hs, hnr, hr⟩ | ⟨u, n, hs, hu, hi, hn⟩
    · exact ⟨s, hgo s (awaitSettle_of_settled hs) hnr, hcs, hs, .refl s, rfl, hfr, by simp, rfl, hr.symm, rfl⟩
    · refine ⟨_, hgo _ (awaitSettle_of_elapse hs hu hi hn) (by rw [hi]; rfl), hcs, ?_, ⟨rfl, rfl, rfl, rfl, rfl, rfl, rfl⟩, rfl, hfr,
        by simp, rfl, rfl, rfl⟩
      simp only [State.settled, withTimer_st, withTimer_params, withInputs_params, Nat.ble_eq]
      exact hn

end Sys2Proof.Machine
end

