-- ==== Sys2Proof/Tests/Slice0.lean ====
section
/-! SUPPORT. Small tests, each a named theorem. Expected values are the spec's own (95_test_vectors.md, or its worked examples
in the section files); none is the model's answer pasted back. -/

namespace Sys2Proof.Tests

open Sys2Proof.Machine

/-! ## Well-formedness -/

/-- An odd chip address is refused, for each constructor; an even one, any offset and any pin pass (R51, R94). -/
theorem test_wellFormed :
    (Instr.regWrite 0x41#8 0x14#8 0x08#8).wellFormed = false ∧ (Instr.regRead 0x41#8 0x14#8).wellFormed = false ∧
      (Instr.setOutput 0x41#8 3#8 true).wellFormed = false ∧ (Instr.writeFrame 0x41#8 0#8 0#8).wellFormed = false ∧
      (Instr.readFrame 0x41#8 0#8).wellFormed = false ∧ (Instr.regWrite 0x40#8 0xFF#8 0xFF#8).wellFormed = true ∧
      (Instr.setOutput 0x40#8 255#8 true).wellFormed = true := by decide

/-! ## Decoding (V2.3, and words written out from R92, R96, R97) -/

theorem test_decode_regWrite :
    decodeCommand 0b00000000010000000001010000001000#32 = .ok (.regWrite 0x40#8 0x14#8 0x08#8) := by decide

theorem test_decode_regRead :
    decodeCommand 0b01000000010000000001010000000000#32 = .ok (.regRead 0x40#8 0x14#8) := by decide

theorem test_decode_setOutput :
    decodeCommand 0b10000000010000000000001100000001#32 = .ok (.setOutput 0x40#8 3#8 true) ∧
      decodeCommand 0x80400300#32 = .ok (.setOutput 0x40#8 3#8 false) ∧
      decodeCommand 0x80401001#32 = .ok (.setOutput 0x40#8 16#8 true) := by decide

theorem test_decode_illegal :
    decodeCommand 0xC0400000#32 = .error .reservedOp ∧ decodeCommand 0x01401408#32 = .error .reservedBits ∧
      decodeCommand 0x00411408#32 = .error .oddAddress ∧ decodeCommand 0x40401401#32 = .error .readLowByte ∧
      decodeCommand 0x80400303#32 = .error .setOutputLowBits ∧ decodeCommand 0x3F000000#32 = .error .reservedBits ∧
      decodeCommand 0x00000000#32 = .ok (.regWrite 0x00#8 0x00#8 0x00#8) := by decide

theorem test_decode_writeFrame :
    decodeFrame 0b010000000001010000001000#24 = .ok (.writeFrame 0x40#8 0x14#8 0x08#8) := by decide

theorem test_decode_readFrame :
    decodeFrame 0b010000010001010011011011#24 = .ok (.readFrame 0x40#8 0x14#8) ∧
      decodeFrame 0x4114DA#24 = .error .notARequest := by decide

theorem test_encode :
    encode (.regWrite 0x40#8 0x14#8 0x08#8) = .cmd32 0x00401408#32 ∧ encode (.regRead 0x40#8 0x14#8) = .cmd32 0x40401400#32 ∧
      encode (.setOutput 0x40#8 3#8 true) = .cmd32 0x80400301#32 ∧
      encode (.writeFrame 0x40#8 0x14#8 0x08#8) = .frame24 0x401408#24 ∧
      encode (.readFrame 0x40#8 0x14#8) = .frame24 0x4114DB#24 := by decide

/-- The words of the opcode table's rows, as the host places them. -/
theorem test_decodeTableWord :
    decodeTableWord 32 0x80400301 = some (.setOutput 0x40#8 3#8 true) ∧
      decodeTableWord 24 0x4114DB = some (.readFrame 0x40#8 0x14#8) ∧ decodeTableWord 32 0xC0400000 = none := by decide

/-! ## Accessors and codec (V1, V2) -/

/-- V1.1. -/
theorem test_pinDecode :
    pinDecode 0#8 = some (.A, 0#3) ∧ pinDecode 7#8 = some (.A, 7#3) ∧ pinDecode 8#8 = some (.B, 0#3) ∧
      pinDecode 11#8 = some (.B, 3#3) ∧ pinDecode 15#8 = some (.B, 7#3) ∧ pinDecode 16#8 = none ∧
      pinDecode 255#8 = none := by decide

/-- V1.2, V1.4, V1.5. -/
theorem test_registerMap :
    halfRegs regMapDefault .A = (0x00#8, 0x14#8) ∧ halfRegs regMapDefault .B = (0x01#8, 0x15#8) ∧
      dirAllOutputs 0x00#8 = true ∧ dirAllOutputs 0x80#8 = false ∧
      ioconBit .haen ||| ioconBit .odr = Config.ioconCfg ∧ ioconBit .bank = 0x80#8 := by decide

/-- V1.3. -/
theorem test_applyBit :
    applyBit 0x00#8 3#3 true = 0x08#8 ∧ applyBit 0x08#8 3#3 false = 0x00#8 ∧ applyBit 0xA0#8 5#3 false = 0x80#8 ∧
      applyBit 0xFF#8 0#3 false = 0xFE#8 ∧ applyBit 0x00#8 7#3 true = 0x80#8 ∧ applyBit 0x55#8 1#3 true = 0x57#8 ∧
      applyBit 0x55#8 2#3 false = 0x51#8 := by decide

/-- V2.1, V2.2. -/
theorem test_codec :
    encWrite 0x40#8 0x14#8 0x08#8 = ⟨0x40#8, 0x14#8, 0x08#8⟩ ∧ encWrite 0x41#8 0x14#8 0x08#8 = ⟨0x40#8, 0x14#8, 0x08#8⟩ ∧
      encRead 0x4A#8 0x15#8 = ⟨0x4B#8, 0x15#8, 0xDB#8⟩ ∧ decRead ⟨0xFF#8, 0xFF#8, 0x00#8⟩ = 0x00#8 := by decide

/-- The first bit on the wire is bit 7 of byte 0 (R54, R161). -/
theorem test_wireBit :
    wireBit ⟨0x80#8, 0x00#8, 0x00#8⟩ 0 = true ∧ wireBit ⟨0x00#8, 0x00#8, 0x01#8⟩ 23 = true ∧
      wireBit ⟨0x00#8, 0x80#8, 0x00#8⟩ 8 = true := by decide

/-! ## One step on small states -/

/-- One reference device, hw = 0, configured as the start state of V3, with its latches and direction A (95_test_vectors.md
section 4). -/
def device0 (dirA latA latB : Byte) : Memory :=
  let m := Memory.write [] (deviceAddr 0 0x0A#8) 0x0C#8
  let m := Memory.write m (deviceAddr 0 0x00#8) dirA
  let m := Memory.write m (deviceAddr 0 0x01#8) 0x00#8
  let m := Memory.write m (deviceAddr 0 0x14#8) latA
  Memory.write m (deviceAddr 0 0x15#8) latB

/-- That device with BANK = 1, as a reset that cuts a write of IOCON short may leave it (U5). -/
def banked0 : Memory := Memory.write (device0 0 0 0) (deviceAddr 0 0x0A#8) 0x8C#8

/-- The block after reset with that device, word `w` at the port and the given moves of the world. -/
def bench (m : Memory) (w : CmdWord) (inputs : List Input) : State :=
  { State.reset with present := 0x01#8, mem := m, port := [w], inputs := inputs }

/-- `Ok` answers of the reference device, each followed by the settle time. -/
def answersOk : Nat → List Input
  | 0 => []
  | k + 1 => .device ⟨0xEE#8, 0xEE#8, 0xEE#8⟩ :: .elapse 1 :: answersOk k

/-- The state of a step that goes on. -/
def stateOf : Host.Outcome State Fault Refusal → Option State
  | .next s => some s
  | .fault _ => none
  | .refused _ => none

/-- RSP after a step. -/
def rspOf (o : Host.Outcome State Fault Refusal) : Option (BitVec 32) := (stateOf o).map (fun s => s.rsp.word)

/-- The requests of the trace after a step. -/
def framesOf (o : Host.Outcome State Fault Refusal) : Option (List Bytes3) :=
  (stateOf o).map (fun s => s.trace.map FrameEvent.tx)

/-- A device register after a step. -/
def regOf (o : Host.Outcome State Fault Refusal) (hw : Nat) (r : Byte) : Option Byte :=
  (stateOf o).map (fun s => Memory.read s.mem (deviceAddr hw r))

/-- V3.1. -/
theorem test_regWrite :
    rspOf (step (bench (device0 0 0 0) 0x00401408#32 (answersOk 1))) = some 0x00010000#32 ∧
      framesOf (step (bench (device0 0 0 0) 0x00401408#32 (answersOk 1))) = some [⟨0x40#8, 0x14#8, 0x08#8⟩] ∧
      regOf (step (bench (device0 0 0 0) 0x00401408#32 (answersOk 1))) 0 0x14#8 = some 0x08#8 := by decide

/-- V3.2, with the write taken by the device. -/
theorem test_regWrite_err :
    rspOf (step (bench (device0 0 0 0) 0x00401408#32 [.deviceErr 0x01#8, .elapse 1])) = some 0x01010000#32 ∧
      regOf (step (bench (device0 0 0 0) 0x00401408#32 [.deviceErr 0x01#8, .elapse 1])) 0 0x14#8 = some 0x08#8 := by decide

/-- V3.3. -/
theorem test_regRead :
    rspOf (step (bench (device0 0 0x5A#8 0) 0x40401400#32 (answersOk 1))) = some 0x4001005A#32 ∧
      framesOf (step (bench (device0 0 0x5A#8 0) 0x40401400#32 (answersOk 1))) = some [⟨0x41#8, 0x14#8, 0xDB#8⟩] := by decide

/-- V3.4. -/
theorem test_regRead_err :
    rspOf (step (bench (device0 0 0 0) 0x40401400#32 [.oracle .err, .elapse 1])) = some 0x01010000#32 := by decide

/-- V3.12: a pin of half B. -/
theorem test_setOutput :
    rspOf (step (bench (device0 0 0 0x01#8) 0x80400B01#32 (answersOk 4))) = some 0x60040909#32 ∧
      framesOf (step (bench (device0 0 0 0x01#8) 0x80400B01#32 (answersOk 4))) =
        some [⟨0x41#8, 0x01#8, 0xDB#8⟩, ⟨0x41#8, 0x15#8, 0xDB#8⟩, ⟨0x40#8, 0x15#8, 0x09#8⟩, ⟨0x41#8, 0x15#8, 0xDB#8⟩] ∧
      regOf (step (bench (device0 0 0 0x01#8) 0x80400B01#32 (answersOk 4))) 0 0x15#8 = some 0x09#8 := by decide

/-- V3.11, V3.13 and V3.18: the guard tests the whole byte; pin 16 sends no frame; an errored re-read is ignored. -/
theorem test_setOutput_errors :
    rspOf (step (bench (device0 0x80#8 0 0) 0x80400001#32 (answersOk 4))) = some 0x43010080#32 ∧
      rspOf (step (bench (device0 0 0 0) 0x80401001#32 (answersOk 4))) = some 0x02000000#32 ∧
      rspOf (step (bench (device0 0 0 0) 0x80400301#32 (answersOk 3 ++ [.oracle .err, .elapse 1]))) = some 0x40040008#32 := by
  decide

/-- V3.22 and V3.23. -/
theorem test_illegal_and_reset :
    rspOf (step (bench [] 0xC0400000#32 [])) = some 0x04000000#32 ∧ State.reset.rsp.word = 0x07000000#32 := by decide

/-- V3.24: with no answer the command stays in XFER with BUSY = 1, and the next step changes nothing. -/
theorem test_hang :
    (stateOf (step (bench (device0 0 0 0) 0x80400301#32 []))).map (fun s => (s.rsp.busy, s.csN, s.sub, s.tx)) =
        some (true, false, .xfer, ⟨0x41#8, 0x00#8, 0xDB#8⟩) ∧
      ((stateOf (step (bench (device0 0 0 0) 0x80400301#32 []))).map (fun s => decide (stateOf (step s) = some s))) =
        some true := by decide

/-- The two request frames run as the first instruction after reset; S7's bytes. -/
theorem test_frames_placed :
    framesOf (step ({ State.reset with inputs := answersOk 1 }.withFetchWord 24 0x401408)) =
        some [⟨0x40#8, 0x14#8, 0x08#8⟩] ∧
      framesOf (step ({ State.reset with inputs := answersOk 1 }.withFetchWord 24 0x4114DB)) =
        some [⟨0x41#8, 0x14#8, 0xDB#8⟩] := by decide

/-- A frame placed and answered is counted, and the command it belongs to then finishes (R173, RSP of V3.1). -/
theorem test_frame_then_finish :
    ((stateOf (step ({ State.reset with inputs := answersOk 1 }.withFetchWord 24 0x401408))).map step).bind rspOf =
      some 0x00010000#32 := by decide

/-! ## Host programs -/

/-- P1: the words of CONFIGURE with BANK_LIST. -/
theorem test_configure :
    assemble regMapDefault [.configure none] =
      .ok ([0x00400A0C#32, 0x00420A0C#32, 0x00440A0C#32, 0x00480A0C#32, 0x004A0A0C#32, 0x004C0A0C#32] ++
        [0x00400000#32, 0x00400100#32, 0x00420000#32, 0x00420100#32, 0x00440000#32, 0x00440100#32] ++
        [0x00480000#32, 0x00480100#32, 0x004A0000#32, 0x004A0100#32, 0x004C0000#32, 0x004C0100#32]) := by decide

/-- P2's second line as text, in small letters and with a comment. -/
theorem test_readLine :
    readLine ['r', 'e', 'g', '_', 'r', 'e', 'a', 'd', ' ', '0', 'x', '4', '0', ',', ' ', 'o', 'l', 'a', 't', 'A', ' ', ';',
      ' ', 'x'] = .ok [.regRead 0x40 (.name .olatA)] := by decide

theorem test_readLine_errors :
    readLine ['S', 'E', 'T', '_', 'O', 'N', ' ', '1'] = .error .badOperands ∧
      readLine ['N', 'O', 'P'] = .error .noSuchMnemonic ∧ readLine [' ', ';', 'x'] = .ok [] ∧
      assemble regMapDefault [.regWrite 0x41 (.number 0) 0] = .error .oddAddr ∧
      assemble regMapDefault [.setOn 0x40 256] = .error .tooBig := by decide

/-! ## Witnesses: for each statement with hypotheses, a state and operands that meet all of them together -/

/-- The state a step that goes on leaves, or the reset state. -/
def after (o : Host.Outcome State Fault Refusal) : State := (stateOf o).getD State.reset

/-- The idle block with the device of V3 and the given moves of the world. -/
def ready (inputs : List Input) : State := { State.reset with present := 0x01#8, mem := device0 0 0x01#8 0, inputs := inputs }

/-- SET_OUTPUT of pin 3 whose latch write is with the transport: its two reads answered, its third frame not. -/
def midWrite : State := after (step (bench (device0 0 0x01#8 0) 0x80400301#32 (answersOk 2)))

/-- The same, with its answer and that of the re-read to come. -/
def midWriting : State := { midWrite with inputs := answersOk 2 }

/-- SET_OUTPUT waiting for the settle time of its latch read. -/
def midSettle : State :=
  after (step (bench (device0 0 0x01#8 0) 0x80400301#32 (answersOk 1 ++ [.device ⟨0#8, 0#8, 0#8⟩])))

/-- REG_WRITE accepted while the settle time of the last frame is still owed: its frame is due. -/
def waitingFirst : State := after (step { bench (device0 0 0 0) 0x00401408#32 [] with st := .since 0 })

/-- The reference device's `Ok` answer to a write frame. -/
def okEE : Answer := .ok ⟨0xEE#8, 0xEE#8, 0xEE#8⟩

/-- A single-frame command, `w`, waiting for its answer, which now comes. -/
def oneInXfer (w : CmdWord) (inputs : List Input) : State :=
  { after (step (bench (device0 0 0x5A#8 0) w [])) with inputs := inputs }

/-- The same command waiting for the settle time, which now passes. -/
def oneOwing (w : CmdWord) : State :=
  { after (step (bench (device0 0 0x5A#8 0) w [.device ⟨0xEE#8, 0xEE#8, 0xEE#8⟩])) with inputs := [.elapse 1] }

/-- The same command waiting for nothing more: its frame was run by itself, once the settle time owed before it had passed. -/
def oneSettled (w : CmdWord) : State :=
  let s := after (step { bench (device0 0 0x5A#8 0) w [] with st := .since 0 })
  after (step { s with inputs := .elapse 1 :: answersOk 1 })

/-- SET_OUTPUT of pin 3 after `k` answered frames, the next with the transport, and its answers to come. -/
def midSetOutput (k : Nat) (inputs : List Input) : State :=
  { after (step (bench (device0 0 0x01#8 0) 0x80400301#32 (answersOk k))) with inputs := inputs }

theorem witness_DecodeOfEncode : (Instr.setOutput 0x4E#8 255#8 true).wellFormed = true := by decide

theorem witness_EncodeOfDecode :
    decode (.cmd32 0x804EFF01#32) = .ok (.setOutput 0x4E#8 255#8 true) ∧
      decode (.frame24 0x4115DB#24) = .ok (.readFrame 0x40#8 0x15#8) := by decide

theorem witness_OperandsAreTheFields :
    decodeCommand 0x00FEFFFF#32 = .ok (.regWrite 0xFE#8 0xFF#8 0xFF#8) ∧
      decodeCommand 0x40FEFF00#32 = .ok (.regRead 0xFE#8 0xFF#8) ∧
      decodeCommand 0x80FEFF00#32 = .ok (.setOutput 0xFE#8 0xFF#8 false) := by decide

/-- Each clause of R128 at the ends of its range. -/
theorem witness_PinDecodeByHalves :
    15 < (16#8 : Byte).toNat ∧ 15 < (255#8 : Byte).toNat ∧ (0#8 : Byte).toNat ≤ 7 ∧ (7#8 : Byte).toNat ≤ 7 ∧
      8 ≤ (8#8 : Byte).toNat ∧ (8#8 : Byte).toNat ≤ 15 ∧ 8 ≤ (15#8 : Byte).toNat ∧ (15#8 : Byte).toNat ≤ 15 := by decide

theorem witness_CodecEvenAddress : (0x40#8 : Byte).getLsbD 0 = false := by decide

theorem witness_WireOrder : 0 < 8 ∧ 7 < 8 := by decide

theorem witness_StepRunsThePortsCommand :
    (bench [] 0x80400301#32 []).rsp.busy = false ∧ noResetNext (bench [] 0x80400301#32 []).inputs = true ∧
      (bench [] 0x80400301#32 []).port = 0x80400301#32 :: [] ∧
      decodeCommand 0x80400301#32 = .ok (.setOutput 0x40#8 3#8 true) := by decide

theorem witness_StepRunsTheDueFrame :
    waitingFirst.rsp.busy = true ∧ noResetNext waitingFirst.inputs = true ∧ waitingFirst.frameDue = true ∧
      dueFrame waitingFirst = .writeFrame 0x40#8 0x14#8 0x08#8 := by decide

theorem witness_PlacedInstructionRuns :
    decodeTableWord 32 0x00401408 = some (.regWrite 0x40#8 0x14#8 0x08#8) ∧
      decodeTableWord 24 0x4114DB = some (.readFrame 0x40#8 0x14#8) := by decide

/-- Both clauses: an idle block with a word offered, and a busy one with another word behind. -/
theorem witness_PortAccepts :
    (∃ t, step (bench [] 0xC0400000#32 []) = .next t) ∧ (bench [] 0xC0400000#32 []).rsp.busy = false ∧
      noResetNext (bench [] 0xC0400000#32 []).inputs = true ∧
      (∃ t, step { midWrite with port := [0xC0400000#32] } = .next t) ∧ midWrite.rsp.busy = true :=
  ⟨⟨_, rfl⟩, by decide, by decide, ⟨_, rfl⟩, by decide⟩

theorem witness_BusyBlockIgnoresCommands :
    midWrite.rsp.busy = true ∧ isCommand (.regRead 0x40#8 0x14#8) = true := by decide

theorem witness_IllegalWordFinishesAtOnce :
    (bench [] 0xC0400000#32 [.elapse 1]).rsp.busy = false ∧ noResetNext (bench [] 0xC0400000#32 [.elapse 1]).inputs = true ∧
      (bench [] 0xC0400000#32 [.elapse 1]).port = 0xC0400000#32 :: [] ∧ ∀ i, decodeCommand 0xC0400000#32 ≠ .ok i :=
  ⟨by decide, by decide, by decide, fun i h => by
    rw [show decodeCommand 0xC0400000#32 = .error .reservedOp by decide] at h; cases h⟩

/-- The transport answers as it likes, or the device does, `Ok` or `Err`. -/
theorem witness_FramesComplete :
    (ready [.oracle .err, .elapse 1]).csN = true ∧ (ready [.oracle .err, .elapse 1]).settled = true ∧
      SettlesIn (ready [.oracle .err, .elapse 1]) 1 ∧
      Replies (ready []) (ready []).mem (encWrite 0x40#8 0x14#8 0x08#8) (.oracle .err) .err (ready []).mem ∧
      Replies (ready []) (ready []).mem (encRead 0x40#8 0x14#8) (.device ⟨1#8, 2#8, 3#8⟩) (.ok ⟨1#8, 2#8, 0x01#8⟩)
        (ready []).mem ∧
      Replies (ready []) (ready []).mem (encWrite 0x40#8 0x14#8 0x08#8) (.device ⟨1#8, 2#8, 3#8⟩) (.ok ⟨1#8, 2#8, 3#8⟩)
        (device0 0 0x08#8 0) := by decide

theorem witness_UnansweredFrame :
    (ready []).csN = true ∧ (ready []).settled = true ∧ (ready []).inputs = [] := by decide

theorem witness_NoFrameStartsBeforeSettle :
    let s : State := { ready [.elapse 1, .lateAnswer .err, .elapse 1] with
      st := .since 2, params := { paramsDefault with settleLessOne := 4 } }
    s.csN = true ∧ s.st = .since 2 ∧ (∀ i ∈ s.inputs, isReset i = false) ∧ 2 + timeIn s.inputs < s.params.tSettle := by
  decide

/-- A command offered while settle time is owed; and a step between two frames of SET_OUTPUT and before a first frame. -/
theorem witness_NoFrameStartsBeforeSettle_commands :
    let c : State := { ready [.lateAnswer .err] with st := .since 0 }
    let m : State := { midSettle with inputs := [.lateAnswer .err] }
    isCommand (.setOutput 0x40#8 3#8 true) = true ∧ (c.csN = true ∧ c.st = .since 0 ∧ (∀ i ∈ c.inputs, isReset i = false) ∧
        0 + timeIn c.inputs < c.params.tSettle) ∧
      (BlockInv m ∧ m.rsp.busy = true ∧ m.sub = .settle ∧ m.st = .since 0 ∧ (∀ i ∈ m.inputs, isReset i = false) ∧
        0 + timeIn m.inputs < m.params.tSettle) ∧
      (BlockInv waitingFirst ∧ waitingFirst.rsp.busy = true ∧ waitingFirst.sub = .settle ∧ waitingFirst.st = .since 0 ∧
        (∀ i ∈ waitingFirst.inputs, isReset i = false) ∧ 0 + timeIn waitingFirst.inputs < waitingFirst.params.tSettle) := by
  refine ⟨by decide, by decide, ⟨?_, by decide⟩, ⟨?_, by decide⟩⟩ <;>
  (refine ⟨?_, ?_, ?_, ?_, ?_, ?_, ?_, ?_, ?_, ?_, ?_, ?_, ?_⟩ <;> decide)

/-- R157: with the latch read answered and no time passed, the latch write has not started, whatever answers are at hand. -/
theorem test_settle_between_frames :
    ((stateOf (step { midSettle with inputs := [.oracle (.ok ⟨0#8, 0#8, 0#8⟩)] })).map (fun s => (s.csN, s.ph, s.trace.length))) =
      some (true, .fLat, 2) := by decide

theorem witness_NoFrameBeginsDuringAnother : midWrite.csN = false := by decide

/-- Both clauses: quiet moves of the world, and a reset next. -/
theorem witness_HungFrameStaysForEver :
    let s : State := { midWrite with inputs := [.elapse 1000] }
    let r : State := { midWrite with inputs := [.reset [⟨0#3, 0xAA#8⟩], .elapse 1] }
    (s.rsp.busy = true ∧ s.ph ≠ .idle ∧ s.sub = .xfer ∧ s.csN = false ∧ ∀ i ∈ s.inputs, isQuiet i = true) ∧
      (r.rsp.busy = true ∧ r.ph ≠ .idle ∧ r.sub = .xfer ∧ r.csN = false ∧
        r.inputs = .reset [⟨0#3, 0xAA#8⟩] :: [.elapse 1]) := by decide

/-- An `Ok` and an `Err` answer, for both single-frame commands. -/
theorem witness_SingleFrameCommandsComplete :
    let s := ready [.device ⟨1#8, 2#8, 3#8⟩, .elapse 1]
    let e := ready [.deviceErr 0x00#8, .elapse 1]
    Ready s ∧ SettlesIn s 1 ∧ s.inputs = .device ⟨1#8, 2#8, 3#8⟩ :: .elapse 1 :: [] ∧
      Replies s s.mem (encWrite 0x40#8 0x14#8 0x08#8) (.device ⟨1#8, 2#8, 3#8⟩) (.ok ⟨1#8, 2#8, 3#8⟩) (device0 0 0x08#8 0) ∧
      Replies s s.mem (encRead 0x40#8 0x14#8) (.device ⟨1#8, 2#8, 3#8⟩) (.ok ⟨1#8, 2#8, 0x01#8⟩) s.mem ∧
      Ready e ∧ SettlesIn e 1 ∧ e.inputs = .deviceErr 0x00#8 :: .elapse 1 :: [] ∧
      Replies e e.mem (encWrite 0x40#8 0x14#8 0x08#8) (.deviceErr 0x00#8) .err e.mem ∧
      Replies e e.mem (encRead 0x40#8 0x14#8) (.deviceErr 0x00#8) .err e.mem := by decide

/-- REG_WRITE that waited, in each way it can wait: answered `Ok` or `Err` while with the transport; the settle time still owed;
nothing owed any more. -/
theorem witness_RegWriteCompletes_waiting :
    (oneInXfer 0x00401408#32 [.oracle .err, .elapse 1]).cmd.op = 0#2 ∧ (oneOwing 0x00401408#32).cmd.op = 0#2 ∧
      (oneSettled 0x00401408#32).cmd.op = 0#2 ∧
      Resumed (oneInXfer 0x00401408#32 [.oracle .err, .elapse 1]) .fOne .err [⟨⟨0x40#8, 0x14#8, 0x08#8⟩, .err⟩]
        (device0 0 0x5A#8 0) [] ∧
      Resumed (oneInXfer 0x00401408#32 (answersOk 1)) .fOne okEE [⟨⟨0x40#8, 0x14#8, 0x08#8⟩, okEE⟩] (device0 0 0x08#8 0) [] ∧
      Resumed (oneOwing 0x00401408#32) .fOne okEE [] (device0 0 0x08#8 0) [] ∧
      Resumed (oneSettled 0x00401408#32) .fOne okEE [] (device0 0 0x08#8 0) [] := by
  refine ⟨by decide, by decide, by decide, ⟨?_, rfl, .inl ⟨rfl, ⟨_, _, rfl, by decide, by decide⟩, by decide⟩⟩,
    ⟨?_, rfl, .inl ⟨rfl, ⟨_, _, rfl, by decide, by decide⟩, by decide⟩⟩,
    ⟨?_, rfl, .inr ⟨rfl, by decide, by decide, rfl, by decide, .inr ⟨0, 1, by decide, rfl, rfl, by decide⟩⟩⟩,
    ⟨?_, rfl, .inr ⟨rfl, by decide, by decide, rfl, by decide, .inl ⟨by decide, by decide, rfl⟩⟩⟩⟩ <;>
  (refine ⟨?_, ?_, ?_, ?_, ?_, ?_, ?_, ?_, ?_, ?_, ?_, ?_, ?_⟩ <;> decide)

/-- The same for REG_READ. -/
theorem witness_RegReadCompletes_waiting :
    (oneInXfer 0x40401400#32 [.oracle .err, .elapse 1]).cmd.op = 1#2 ∧ (oneOwing 0x40401400#32).cmd.op = 1#2 ∧
      (oneSettled 0x40401400#32).cmd.op = 1#2 ∧
      Resumed (oneInXfer 0x40401400#32 [.oracle .err, .elapse 1]) .fOne .err [⟨⟨0x41#8, 0x14#8, 0xDB#8⟩, .err⟩]
        (device0 0 0x5A#8 0) [] ∧
      Resumed (oneInXfer 0x40401400#32 (answersOk 1)) .fOne (.ok ⟨0xEE#8, 0xEE#8, 0x5A#8⟩)
        [⟨⟨0x41#8, 0x14#8, 0xDB#8⟩, .ok ⟨0xEE#8, 0xEE#8, 0x5A#8⟩⟩] (device0 0 0x5A#8 0) [] ∧
      Resumed (oneOwing 0x40401400#32) .fOne (.ok ⟨0xEE#8, 0xEE#8, 0x5A#8⟩) [] (device0 0 0x5A#8 0) [] ∧
      Resumed (oneSettled 0x40401400#32) .fOne (.ok ⟨0xEE#8, 0xEE#8, 0x5A#8⟩) [] (device0 0 0x5A#8 0) [] := by
  refine ⟨by decide, by decide, by decide, ⟨?_, rfl, .inl ⟨rfl, ⟨_, _, rfl, by decide, by decide⟩, by decide⟩⟩,
    ⟨?_, rfl, .inl ⟨rfl, ⟨_, _, rfl, by decide, by decide⟩, by decide⟩⟩,
    ⟨?_, rfl, .inr ⟨rfl, by decide, by decide, rfl, by decide, .inr ⟨0, 1, by decide, rfl, rfl, by decide⟩⟩⟩,
    ⟨?_, rfl, .inr ⟨rfl, by decide, by decide, rfl, by decide, .inl ⟨by decide, by decide, rfl⟩⟩⟩⟩ <;>
  (refine ⟨?_, ?_, ?_, ?_, ?_, ?_, ?_, ?_, ?_, ?_, ?_, ?_, ?_⟩ <;> decide)

/-- A REG_READ that waited reports its byte, and a REG_WRITE that waited does not (V3.3, V3.1). -/
theorem test_waiting_commands :
    rspOf (step (oneInXfer 0x40401400#32 (answersOk 1))) = some 0x4001005A#32 ∧
      rspOf (step (oneOwing 0x00401408#32)) = some 0x00010000#32 := by decide

theorem witness_SetOutputRejectsPin :
    (ready []).rsp.busy = false ∧ 15 < (16#8 : Byte).toNat ∧ 15 < (255#8 : Byte).toNat := by decide

/-- A direction byte that is not 0x00, and an errored direction read. -/
theorem witness_SetOutputStopsAtTheGuard :
    let s := ready [.oracle (.ok ⟨0#8, 0#8, 0x80#8⟩), .elapse 1]
    let e := ready [.oracle .err, .elapse 1]
    Ready s ∧ SettlesIn s 1 ∧ pinDecode 8#8 = some (.B, 0#3) ∧
      s.inputs = .oracle (.ok ⟨0#8, 0#8, 0x80#8⟩) :: .elapse 1 :: [] ∧
      Replies s s.mem (encRead 0x40#8 (halfRegs s.params.regMap .B).1) (.oracle (.ok ⟨0#8, 0#8, 0x80#8⟩))
        (.ok ⟨0#8, 0#8, 0x80#8⟩) s.mem ∧
      answerByte (.ok ⟨0#8, 0#8, 0x80#8⟩) ≠ some 0x00#8 ∧
      Ready e ∧ SettlesIn e 1 ∧ e.inputs = .oracle .err :: .elapse 1 :: [] ∧
      Replies e e.mem (encRead 0x40#8 (halfRegs e.params.regMap .B).1) (.oracle .err) .err e.mem ∧
      answerByte .err ≠ some 0x00#8 := by decide

/-- The same while the command waits for that read. -/
theorem witness_SetOutputStopsAtTheGuard_waiting :
    answerByte (.ok ⟨0#8, 0#8, 0x80#8⟩) ≠ some 0x00#8 ∧
      Resumed (midSetOutput 0 [.oracle (.ok ⟨0#8, 0#8, 0x80#8⟩), .elapse 1]) .fDir (.ok ⟨0#8, 0#8, 0x80#8⟩)
        [⟨⟨0x41#8, 0x00#8, 0xDB#8⟩, .ok ⟨0#8, 0#8, 0x80#8⟩⟩] (device0 0 0x01#8 0) [] ∧
      answerByte .err ≠ some 0x00#8 ∧
      Resumed (midSetOutput 0 [.oracle .err, .elapse 1]) .fDir .err [⟨⟨0x41#8, 0x00#8, 0xDB#8⟩, .err⟩]
        (device0 0 0x01#8 0) [] := by
  refine ⟨by decide, ⟨?_, rfl, .inl ⟨rfl, ⟨_, _, rfl, by decide, by decide⟩, by decide⟩⟩, by decide,
    ⟨?_, rfl, .inl ⟨rfl, ⟨_, _, rfl, by decide, by decide⟩, by decide⟩⟩⟩ <;>
  (refine ⟨?_, ?_, ?_, ?_, ?_, ?_, ?_, ?_, ?_, ?_, ?_, ?_, ?_⟩ <;> decide)

/-- A SET_OUTPUT that waits for its direction read, which then comes back 0x00. -/
theorem midSetOutput_direction :
    Resumed (midSetOutput 0 (answersOk 4)) .fDir (.ok ⟨0xEE#8, 0xEE#8, 0x00#8⟩)
      [⟨⟨0x41#8, 0x00#8, 0xDB#8⟩, .ok ⟨0xEE#8, 0xEE#8, 0x00#8⟩⟩] (device0 0 0x01#8 0) (answersOk 3) := by
  refine ⟨?_, rfl, .inl ⟨rfl, ⟨_, _, rfl, by decide, by decide⟩, by decide⟩⟩
  refine ⟨?_, ?_, ?_, ?_, ?_, ?_, ?_, ?_, ?_, ?_, ?_, ?_, ?_⟩ <;> decide

/-- Its latch read then comes back too. -/
theorem midSetOutput_latchRead :
    LatchReadBack (midSetOutput 0 (answersOk 4)) (.ok ⟨0xEE#8, 0xEE#8, 0x01#8⟩)
      [⟨⟨0x41#8, 0x00#8, 0xDB#8⟩, .ok ⟨0xEE#8, 0xEE#8, 0x00#8⟩⟩, ⟨⟨0x41#8, 0x14#8, 0xDB#8⟩, .ok ⟨0xEE#8, 0xEE#8, 0x01#8⟩⟩]
      (device0 0 0x01#8 0) (answersOk 2) :=
  .inr ⟨_, _, _, _, midSetOutput_direction, rfl, ⟨_, _, rfl, by decide, by decide⟩, by decide⟩

/-- Its latch write then comes back too. -/
theorem midSetOutput_latchWrite :
    LatchWriteBack (midSetOutput 0 (answersOk 4)) 0x09#8 okEE
      [⟨⟨0x41#8, 0x00#8, 0xDB#8⟩, .ok ⟨0xEE#8, 0xEE#8, 0x00#8⟩⟩, ⟨⟨0x41#8, 0x14#8, 0xDB#8⟩, .ok ⟨0xEE#8, 0xEE#8, 0x01#8⟩⟩,
        ⟨⟨0x40#8, 0x14#8, 0x09#8⟩, okEE⟩] (device0 0 0x09#8 0) (answersOk 1) :=
  .inr ⟨_, _, _, _, midSetOutput_latchRead, by decide, ⟨_, _, rfl, by decide, by decide⟩, by decide⟩

/-- The latch read errored: while the command waits for it, and while it waits for the direction read. -/
theorem witness_SetOutputStopsAtTheLatchRead_waiting :
    LatchReadBack (midSetOutput 1 [.oracle .err, .elapse 1]) .err [⟨⟨0x41#8, 0x14#8, 0xDB#8⟩, .err⟩]
        (device0 0 0x01#8 0) [] ∧
      LatchReadBack (midSetOutput 0 (answersOk 1 ++ [.oracle .err, .elapse 1])) .err
        [⟨⟨0x41#8, 0x00#8, 0xDB#8⟩, .ok ⟨0xEE#8, 0xEE#8, 0x00#8⟩⟩, ⟨⟨0x41#8, 0x14#8, 0xDB#8⟩, .err⟩]
        (device0 0 0x01#8 0) [] := by
  refine ⟨.inl ⟨?_, rfl, .inl ⟨rfl, ⟨_, _, rfl, by decide, by decide⟩, by decide⟩⟩,
    .inr ⟨⟨0xEE#8, 0xEE#8, 0x00#8⟩, _, device0 0 0x01#8 0, _, ⟨?_, rfl, .inl ⟨rfl, ⟨_, _, rfl, by decide, by decide⟩, rfl⟩⟩, rfl,
      ⟨_, _, rfl, by decide, by decide⟩, by decide⟩⟩ <;>
  refine ⟨?_, ?_, ?_, ?_, ?_, ?_, ?_, ?_, ?_, ?_, ?_, ?_, ?_⟩ <;> decide

/-- The latch write: errored while the command waits for it; and, with VERIFY_READBACK false, answered `Ok`. -/
theorem witness_SetOutputWritesTheLatch_waiting :
    LatchWriteBack { midWrite with inputs := [.deviceErr 0x01#8, .elapse 1] } 0x09#8 .err
        [⟨⟨0x40#8, 0x14#8, 0x09#8⟩, .err⟩] (device0 0 0x09#8 0) [] ∧
      LatchWriteBack { midWriting with params := { paramsDefault with verifyReadback := false } } 0x09#8 okEE
        [⟨⟨0x40#8, 0x14#8, 0x09#8⟩, okEE⟩] (device0 0 0x09#8 0) (answersOk 1) ∧
      ∃ events, LatchWriteBack (midSetOutput 0 (answersOk 4)) 0x09#8 okEE events (device0 0 0x09#8 0) (answersOk 1) := by
  refine ⟨.inl ⟨⟨?_, rfl, .inl ⟨rfl, ⟨_, _, rfl, by decide, by decide⟩, by decide⟩⟩, by decide⟩,
    .inl ⟨⟨?_, rfl, .inl ⟨rfl, ⟨_, _, rfl, by decide, by decide⟩, by decide⟩⟩, by decide⟩, _, midSetOutput_latchWrite⟩ <;>
  (refine ⟨?_, ?_, ?_, ?_, ?_, ?_, ?_, ?_, ?_, ?_, ?_, ?_, ?_⟩ <;> decide)

/-- The re-read: while the command waits for it, errored; and while it still waits for its direction read. -/
theorem witness_SetOutputVerifies_waiting :
    VerifyBack (midSetOutput 3 [.oracle .err, .elapse 1]) 0x09#8 .err [⟨⟨0x41#8, 0x14#8, 0xDB#8⟩, .err⟩]
        (device0 0 0x09#8 0) [] ∧
      ∃ events, VerifyBack (midSetOutput 0 (answersOk 4)) 0x09#8 (.ok ⟨0xEE#8, 0xEE#8, 0x09#8⟩) events
        (device0 0 0x09#8 0) [] := by
  refine ⟨.inl ⟨⟨?_, rfl, .inl ⟨rfl, ⟨_, _, rfl, by decide, by decide⟩, by decide⟩⟩, by decide⟩,
    _, .inr ⟨by decide, _, _, _, _, midSetOutput_latchWrite, ⟨_, _, rfl, by decide, by decide⟩, rfl⟩⟩
  refine ⟨?_, ?_, ?_, ?_, ?_, ?_, ?_, ?_, ?_, ?_, ?_, ?_, ?_⟩ <;> decide

theorem witness_SetOutputStopsAtTheLatchRead :
    let s := ready [.device ⟨1#8, 1#8, 1#8⟩, .elapse 1, .oracle .err, .elapse 2]
    Ready s ∧ SettlesIn s 1 ∧ SettlesIn s 2 ∧ pinDecode 7#8 = some (.A, 7#3) ∧
      s.inputs = .device ⟨1#8, 1#8, 1#8⟩ :: .elapse 1 :: .oracle .err :: .elapse 2 :: [] ∧
      Replies s s.mem (encRead 0x40#8 (halfRegs s.params.regMap .A).1) (.device ⟨1#8, 1#8, 1#8⟩)
        (.ok ⟨1#8, 1#8, 0x00#8⟩) s.mem ∧
      Replies s s.mem (encRead 0x40#8 (halfRegs s.params.regMap .A).2) (.oracle .err) .err s.mem := by decide

/-- The write errored with VERIFY_READBACK true (the device took it), and the write answered `Ok` with VERIFY_READBACK false. -/
theorem witness_SetOutputWritesTheLatch :
    let s := ready (answersOk 2 ++ [.deviceErr 0x01#8, .elapse 1])
    let n : State := { ready (answersOk 3) with params := { paramsDefault with verifyReadback := false } }
    let f : Input := .device ⟨0xEE#8, 0xEE#8, 0xEE#8⟩
    Ready s ∧ SettlesIn s 1 ∧ pinDecode 3#8 = some (.A, 3#3) ∧
      s.inputs = f :: .elapse 1 :: f :: .elapse 1 :: .deviceErr 0x01#8 :: .elapse 1 :: [] ∧
      Replies s s.mem (encRead 0x40#8 (halfRegs s.params.regMap .A).1) f (.ok ⟨0xEE#8, 0xEE#8, 0x00#8⟩) s.mem ∧
      Replies s s.mem (encRead 0x40#8 (halfRegs s.params.regMap .A).2) f (.ok ⟨0xEE#8, 0xEE#8, 0x01#8⟩) s.mem ∧
      Replies s s.mem (encWrite 0x40#8 (halfRegs s.params.regMap .A).2 (applyBit 0x01#8 3#3 true)) (.deviceErr 0x01#8) .err
        (device0 0 0x09#8 0) ∧
      Ready n ∧ SettlesIn n 1 ∧ n.params.verifyReadback = false ∧
      n.inputs = f :: .elapse 1 :: f :: .elapse 1 :: f :: .elapse 1 :: [] ∧
      Replies n n.mem (encRead 0x40#8 (halfRegs n.params.regMap .A).1) f (.ok ⟨0xEE#8, 0xEE#8, 0x00#8⟩) n.mem ∧
      Replies n n.mem (encRead 0x40#8 (halfRegs n.params.regMap .A).2) f (.ok ⟨0xEE#8, 0xEE#8, 0x01#8⟩) n.mem ∧
      Replies n n.mem (encWrite 0x40#8 (halfRegs n.params.regMap .A).2 (applyBit 0x01#8 3#3 false)) f
        (.ok ⟨0xEE#8, 0xEE#8, 0xEE#8⟩) (device0 0 0x01#8 0) := by decide

theorem witness_SetOutputVerifies :
    let s := ready (answersOk 4)
    let f : Input := .device ⟨0xEE#8, 0xEE#8, 0xEE#8⟩
    Ready s ∧ SettlesIn s 1 ∧ pinDecode 15#8 = some (.B, 7#3) ∧ s.params.verifyReadback = true ∧
      s.inputs = f :: .elapse 1 :: f :: .elapse 1 :: f :: .elapse 1 :: f :: .elapse 1 :: [] ∧
      Replies s s.mem (encRead 0x40#8 (halfRegs s.params.regMap .B).1) f (.ok ⟨0xEE#8, 0xEE#8, 0x00#8⟩) s.mem ∧
      Replies s s.mem (encRead 0x40#8 (halfRegs s.params.regMap .B).2) f (.ok ⟨0xEE#8, 0xEE#8, 0x00#8⟩) s.mem ∧
      Replies s s.mem (encWrite 0x40#8 (halfRegs s.params.regMap .B).2 (applyBit 0x00#8 7#3 true)) f
        (.ok ⟨0xEE#8, 0xEE#8, 0xEE#8⟩) (device0 0 0x01#8 0x80#8) ∧
      Replies s (device0 0 0x01#8 0x80#8) (encRead 0x40#8 (halfRegs s.params.regMap .B).2) f
        (.ok ⟨0xEE#8, 0xEE#8, 0x80#8⟩) (device0 0 0x01#8 0x80#8) := by decide

/-- A SET_OUTPUT that waits for its latch read with its write still to come: its step adds a write frame. -/
theorem witness_SetOutputNeverWritesUnguarded_step :
    let s := midSetOutput 1 (answersOk 3)
    BlockInv s ∧ GuardTrace s ∧ s.rsp.busy = true ∧ s.cmd.op = 2#2 ∧ s.trace.length = 1 ∧
      ∃ t, step s = .next t ∧ (t.trace.map (fun e => isWriteRequest e.tx)) = [false, false, true, false] := by
  refine ⟨?_, ⟨fun h => absurd h (by decide), fun _ _ => ?_, fun _ h => absurd h (by decide), fun h => absurd h (by decide)⟩,
    by decide, by decide, by decide, ⟨_, rfl, by decide⟩⟩
  · refine ⟨?_, ?_, ?_, ?_, ?_, ?_, ?_, ?_, ?_, ?_, ?_, ?_, ?_⟩ <;> decide
  · exact ⟨[], ⟨⟨0x41#8, 0x00#8, 0xDB#8⟩, .ok ⟨0xEE#8, 0xEE#8, 0x00#8⟩⟩, by decide, by decide, _, rfl, by decide⟩

/-- A SET_OUTPUT that goes on to its write: the third frame of its four is a write. -/
theorem witness_SetOutputNeverWritesUnguarded :
    (∃ t, exec (.setOutput 0x40#8 3#8 true) (ready (answersOk 4)) = .next t) ∧
      ((framesOf (exec (.setOutput 0x40#8 3#8 true) (ready (answersOk 4)))).map (fun l => l.map isWriteRequest)) =
        some [false, false, true, false] := ⟨⟨_, rfl⟩, by decide⟩

/-- REG_WRITE finished, and REG_WRITE still waiting; a canonical memory, and an address the write leaves alone. -/
theorem witness_RegWriteFrame :
    (∃ t, exec (.regWrite 0x40#8 0x14#8 0x08#8) (ready (answersOk 1)) = .next t) ∧
      (∃ t, exec (.regWrite 0x40#8 0x14#8 0x08#8) (ready []) = .next t ∧ t.rsp.busy = true) ∧
      Memory.wf (ready (answersOk 1)).mem = true ∧
      ∀ hw ∈ selectedDevices paramsDefault 0x01#8 (ready []).mem (encWrite 0x40#8 0x14#8 0x08#8).b0,
        deviceAddr 0 0x15#8 ≠ deviceAddr hw (addressed (ready []).mem hw 0x14#8) := ⟨⟨_, rfl⟩, ⟨_, rfl, by decide⟩, by decide, by decide⟩

theorem witness_RegReadFrame :
    (∃ t, exec (.regRead 0x40#8 0x14#8) (ready (answersOk 1)) = .next t) ∧
      ∃ t, exec (.regRead 0x40#8 0x14#8) (ready []) = .next t ∧ t.rsp.busy = true := ⟨⟨_, rfl⟩, ⟨_, rfl, by decide⟩⟩

/-- SET_OUTPUT of a pin that there is and of one that there is not; and an address its write leaves alone. -/
theorem witness_SetOutputFrame :
    (∃ t, exec (.setOutput 0x40#8 3#8 true) (ready (answersOk 4)) = .next t) ∧
      (∃ t, exec (.setOutput 0x40#8 3#8 true) (ready []) = .next t ∧ t.rsp.busy = true) ∧
      (∃ t, exec (.setOutput 0x40#8 16#8 true) (ready []) = .next t) ∧ pinDecode 16#8 = none ∧
      Memory.wf (ready (answersOk 4)).mem = true ∧ pinDecode 3#8 = some (.A, 3#3) ∧
      ∀ hw ∈ selectedDevices paramsDefault 0x01#8 (ready []).mem (encWrite 0x40#8 (halfRegs regMapDefault .A).2 0x00#8).b0,
        deviceAddr 0 0x15#8 ≠ deviceAddr hw (addressed (ready []).mem hw (halfRegs regMapDefault .A).2) :=
  ⟨⟨_, rfl⟩, ⟨_, rfl, by decide⟩, ⟨_, rfl⟩, by decide, by decide, by decide, by decide⟩

theorem witness_RequestFramesFrame :
    (∃ t, exec (.writeFrame 0x40#8 0x14#8 0x08#8) (ready (answersOk 1)) = .next t) ∧
      (∃ t, exec (.readFrame 0x40#8 0x14#8) (ready (answersOk 1)) = .next t) ∧
      Memory.wf (ready (answersOk 1)).mem = true ∧
      ∀ hw ∈ selectedDevices paramsDefault 0x01#8 (ready []).mem (encWrite 0x40#8 0x14#8 0x08#8).b0,
        deviceAddr 0 0x15#8 ≠ deviceAddr hw (addressed (ready []).mem hw 0x14#8) := ⟨⟨_, rfl⟩, ⟨_, rfl⟩, by decide, by decide⟩

/-- Three reference devices on the bus, none configured: device-select 0 reaches them all. -/
def cutWrite : State :=
  { after (step { bench [] 0x00401408#32 [] with present := 0x07#8 }) with
    inputs := [.reset [⟨0#3, 0xAA#8⟩, ⟨2#3, 0x55#8⟩]] }

/-- A reset that finds the block idle, and one that cuts a write frame to several devices short. -/
theorem witness_ResetAbandonsTheCommand :
    let s := ready [.reset []]
    let c := cutWrite
    let draws : List CutDraw := [⟨0#3, 0xAA#8⟩, ⟨2#3, 0x55#8⟩]
    s.inputs = .reset [] :: [] ∧ s.csN = true ∧ c.inputs = .reset draws :: [] ∧ c.csN = false ∧ Memory.wf c.mem = true ∧
      (∀ hw ∈ selectedDevices c.params c.present c.mem c.tx.b0,
        deviceAddr 0 0x15#8 ≠ deviceAddr hw (addressed c.mem hw c.tx.b1)) ∧
      (draws.map CutDraw.hw).Nodup ∧
      ∀ d ∈ draws, d.hw.toNat ∈ selectedDevices c.params c.present c.mem c.tx.b0 ∧
        addressed c.mem d.hw.toNat c.tx.b1 ≤ 0x15#8 := by
  decide

/-- U5: two devices that one cut frame reaches may be left with different bytes, and a third as it was. -/
theorem test_cut_frame :
    regOf (step cutWrite) 0 0x14#8 = some 0xAA#8 ∧ regOf (step cutWrite) 1 0x14#8 = some 0x00#8 ∧
      regOf (step cutWrite) 2 0x14#8 = some 0x55#8 := by decide

/-- Every part of `BlockInv` in the middle of a SET_OUTPUT: the latch write with the transport. -/
theorem witness_midWriting_BlockInv : BlockInv midWriting := by
  refine ⟨?_, ?_, ?_, ?_, ?_, ?_, ?_, ?_, ?_, ?_, ?_, ?_, ?_⟩ <;> decide

/-- A step from there that finishes the command. -/
theorem witness_StepKeepsBlockInv :
    BlockInv midWriting ∧ ∃ t, step midWriting = .next t :=
  ⟨witness_midWriting_BlockInv, _, rfl⟩

/-- The clauses of `GuardTrace` that speak of this point: the latch write with the transport, its two reads in the trace. -/
theorem witness_midWriting_GuardTrace : GuardTrace midWriting := by
  refine ⟨fun h => absurd h (by decide), fun h => absurd h (by decide), fun h => absurd h (by decide), fun _ _ => ?_⟩
  refine ⟨[], ⟨⟨0x41#8, 0x00#8, 0xDB#8⟩, .ok ⟨0xEE#8, 0xEE#8, 0x00#8⟩⟩,
    ⟨⟨0x41#8, 0x14#8, 0xDB#8⟩, .ok ⟨0xEE#8, 0xEE#8, 0x01#8⟩⟩, by decide, ⟨by decide, _, rfl, by decide⟩,
    ⟨by decide, _, rfl, by decide⟩⟩

theorem witness_StepKeepsGuardTrace :
    BlockInv midWriting ∧ GuardTrace midWriting ∧
      ∃ t, step midWriting = .next t :=
  ⟨witness_midWriting_BlockInv, witness_midWriting_GuardTrace, _, rfl⟩

/-- The guard trace one frame earlier: the latch read answered, its settle time still owed. -/
theorem witness_midSettle_GuardTrace : GuardTrace midSettle := by
  refine ⟨fun h => absurd h (by decide), fun _ h => absurd h (by decide), fun _ _ => ?_, fun h => absurd h (by decide)⟩
  exact ⟨[⟨⟨0x41#8, 0x00#8, 0xDB#8⟩, .ok ⟨0xEE#8, 0xEE#8, 0x00#8⟩⟩], by decide,
    [], ⟨⟨0x41#8, 0x00#8, 0xDB#8⟩, .ok ⟨0xEE#8, 0xEE#8, 0x00#8⟩⟩, by decide, by decide, _, rfl, by decide⟩

theorem witness_StepKeepsMemoryCanonical :
    Memory.wf midWriting.mem = true ∧
      ∃ t, step midWriting = .next t := ⟨by decide, _, rfl⟩

theorem witness_OracleRunsAreNeverRefused :
    ∀ i ∈ (ready [.oracle .err, .elapse 1, .lateAnswer .err, .reset []]).inputs, isDeviceInput i = false := by
  decide

theorem witness_ParametersAreFixed : ∃ t, step midWriting = .next t := ⟨_, rfl⟩

/-- A step that adds two frames, one of them a read. -/
theorem witness_BlockEmitsOnlyItsTwoRequests :
    BlockInv midWriting ∧ (∃ t, step midWriting = .next t) ∧
      ((framesOf (step midWriting)).map List.length) = some 4 ∧ midWrite.trace.length = 2 :=
  ⟨witness_midWriting_BlockInv, ⟨_, rfl⟩, by decide, by decide⟩

/-- A step that leaves its re-read, a read request, with the transport. -/
theorem witness_BlockEmits_inProgress :
    ∃ t, step { midWrite with inputs := answersOk 1 } = .next t ∧ t.csN = false ∧ t.tx.b0.getLsbD 0 = true :=
  ⟨_, rfl, by decide, by decide⟩

/-- A step of a busy block that leaves it busy, and one that finishes the command. -/
theorem witness_BusySteps :
    midWrite.rsp.busy = true ∧ (∃ t, step midWrite = .next t ∧ t.rsp.busy = true ∧ t.ph = .fWr) ∧
      midWriting.rsp.busy = true ∧ ∃ t, step midWriting = .next t ∧ t.ph = .idle :=
  ⟨by decide, ⟨_, rfl, by decide, by decide⟩, by decide, ⟨_, rfl, by decide⟩⟩

theorem witness_SelectionByPinsAndHaen :
    paramsDefault.haenZero = .onlyZero ∧ 0 < 8 ∧ 7 < 8 ∧ (0x80#8 : BitVec 8).getLsbD 7 = true := by decide

/-- Each clause of R72 and R73 on the device of V3, at the ends of its offsets: a write of a stored offset (IOCON among them), a
write that is refused, a read of a register, a read of an offset that is none, and a read that selects no device. -/
theorem witness_ReferenceDevicesAnswer :
    let m := device0 0 0x01#8 0
    let sel := selectedDevices paramsDefault 0x01#8 m
    let stored (r : Byte) : Prop := r ≤ 0x0D#8 ∨ r = 0x14#8 ∨ r = 0x15#8
    let other (r : Byte) : Prop := (0x0E#8 ≤ r ∧ r ≤ 0x13#8) ∨ 0x16#8 ≤ r
    (0x40#8 : Byte).getLsbD 0 = false ∧ (0x41#8 : Byte).getLsbD 0 = true ∧
      (stored 0x00#8 ∧ stored 0x0A#8 ∧ stored 0x0B#8 ∧ stored 0x0D#8 ∧ stored 0x14#8 ∧ stored 0x15#8) ∧
      ((0x0C#8 : Byte).getLsbD 7 = false ∧ (0x80#8 : Byte).getLsbD 7 = true) ∧
      (other 0x0E#8 ∧ other 0x13#8 ∧ other 0x16#8 ∧ other 0xFF#8) ∧
      (¬ stored 0x0E#8 ∧ ¬ stored 0x13#8 ∧ ¬ stored 0x16#8 ∧ ¬ stored 0xFF#8) ∧ sel 0x41#8 = [0] ∧
      (stored (addressed m 0 0x15#8) ∧ other (addressed m 0 0x16#8)) ∧ (sel 0x43#8).length ≠ 1 ∧ sel 0x40#8 ≠ [] ∧
      sel 0x42#8 = [] := by
  decide

/-- Its clauses on what a write leaves: an addressed register and another, and a device with each value of BANK. -/
theorem witness_ReferenceDevicesAnswer_memory :
    Memory.wf (device0 0 0x01#8 0) = true ∧
      (∃ hw ∈ [0], addressed (device0 0 0x01#8 0) hw 0x15#8 ≤ 0x15#8 ∧
        deviceAddr 0 0x15#8 = deviceAddr hw (addressed (device0 0 0x01#8 0) hw 0x15#8)) ∧
      (∀ hw ∈ [0], addressed (device0 0 0x01#8 0) hw 0x15#8 ≤ 0x15#8 →
        deviceAddr 0 0x14#8 ≠ deviceAddr hw (addressed (device0 0 0x01#8 0) hw 0x15#8)) ∧
      (deviceIocon (device0 0 0x01#8 0) 0).getLsbD 7 = false ∧ (deviceIocon banked0 0).getLsbD 7 = true := by decide

/-- R72 refuses a write to a device by its offset and value and by nothing else: a device whose BANK is 1 answers a write and a
read, and a write that selects no device is answered (R75). -/
theorem test_banked_device :
    (∃ t, step (bench banked0 0x00401408#32 (answersOk 1)) = .next t ∧ t.rsp.word = 0x00010000#32) ∧
      (∃ t, step (bench banked0 0x40401400#32 (answersOk 1)) = .next t ∧ t.rsp.code = .ok ∧ t.rsp.rvalid = true) ∧
      step (bench banked0 0x00401608#32 (answersOk 1)) = .refused .outsideReferenceModel ∧
      (∃ t, step (bench banked0 0x00421608#32 (answersOk 1)) = .next t ∧ t.rsp.word = 0x00010000#32 ∧ t.mem = banked0) :=
  ⟨⟨_, rfl, by decide⟩, ⟨_, rfl, by decide, by decide⟩, rfl, ⟨_, rfl, by decide, by decide⟩⟩

/-- The write reached the device, or not. -/
theorem witness_ErroredWriteAppliesOrNot :
    Memory.wf (device0 0 0x01#8 0) = true ∧
      deviceErrReply paramsDefault 0x01#8 (device0 0 0x01#8 0) ⟨0x40#8, 0x14#8, 0x08#8⟩ 0x01#8 =
        .answer .err (device0 0 0x08#8 0) ∧
      deviceErrReply paramsDefault 0x01#8 (device0 0 0x01#8 0) ⟨0x40#8, 0x14#8, 0x08#8⟩ 0x00#8 =
        .answer .err (device0 0 0x01#8 0) := by decide

theorem witness_SetOutputBeforeConfigureMismatches :
    let s : State := { State.reset with present := 0x01#8, inputs := answersOk 1 }
    Ready s ∧ SettlesIn s 1 ∧ s.params.regMap = regMapDefault ∧ s.mem = [] ∧ pinDecode 8#8 = some (.B, 0#3) ∧
      selectedDevices s.params s.present s.mem (0x40#8 ||| 0x01#8) = [0] ∧
      s.inputs = .device ⟨0xEE#8, 0xEE#8, 0xEE#8⟩ :: .elapse 1 :: [] := by decide

theorem witness_RegWriteTwiceIsOnce :
    let s := ready (answersOk 2)
    let f : Bytes3 := ⟨0xEE#8, 0xEE#8, 0xEE#8⟩
    Ready s ∧ SettlesIn s 1 ∧ Memory.wf s.mem = true ∧ ((0x14#8 : Byte) ≤ 0x0D#8 ∨ (0x14#8 : Byte) = 0x14#8 ∨ (0x14#8 : Byte) = 0x15#8) ∧ (0x14#8 : Byte) ≠ 0x0A#8 ∧
      (0x14#8 : Byte) ≠ 0x0B#8 ∧
      (∀ hw ∈ selectedDevices s.params s.present s.mem (0x40#8 &&& 0xFE#8), (deviceIocon s.mem hw).getLsbD 7 = false) ∧
      s.inputs = .device f :: .elapse 1 :: .device f :: .elapse 1 :: [] := by decide

theorem witness_CanonicalMemoriesAreEqual :
    Memory.wf (device0 0 0x01#8 0) = true ∧ Memory.wf (Memory.write (device0 0 0 0) (deviceAddr 0 0x14#8) 0x01#8) = true ∧
      ∀ b : Nat, Memory.read (device0 0 0x01#8 0) b =
        Memory.read (Memory.write (device0 0 0 0) (deviceAddr 0 0x14#8) 0x01#8) b :=
  ⟨by decide, by decide, fun b => by
    rw [show Memory.write (device0 0 0 0) (deviceAddr 0 0x14#8) 0x01#8 = device0 0 0x01#8 0 by decide]⟩

theorem witness_IoconIsOneByte :
    Memory.wf (device0 0 0 0) = true ∧ (deviceIocon (device0 0 0 0) 0).getLsbD 7 = false ∧ (0x0A#8 : Byte) = 0x0A#8 ∧
      (0x0B#8 : Byte) = 0x0B#8 ∧ (0x00#8 : Byte) ≤ 0x0D#8 ∧ (0x0D#8 : Byte) ≤ 0x0D#8 ∧ (0x14#8 : Byte) = 0x14#8 ∧
      (0x15#8 : Byte) = 0x15#8 ∧ ¬ (0x0E#8 : Byte) ≤ 0x0D#8 ∧ (0x09#8 : Byte) ≠ 0x0A#8 ∧ (0x0C#8 : Byte) ≠ 0x0B#8 := by
  decide

theorem witness_ReadSeesTheWriteBefore :
    let f : Bytes3 := ⟨0xEE#8, 0xEE#8, 0xEE#8⟩
    let s := ready (answersOk 2)
    Ready s ∧ SettlesIn s 1 ∧ Memory.wf s.mem = true ∧ (0x40#8 : Byte).getLsbD 0 = false ∧
      selectedDevices s.params s.present s.mem 0x40#8 = [0] ∧ (deviceIocon s.mem 0).getLsbD 7 = false ∧
      ((0x14#8 : Byte) ≤ 0x0D#8 ∨ (0x14#8 : Byte) = 0x14#8 ∨ (0x14#8 : Byte) = 0x15#8) ∧ (0x14#8 : Byte) ≠ 0x0A#8 ∧
      (0x14#8 : Byte) ≠ 0x0B#8 ∧
      s.inputs = .device f :: .elapse 1 :: .device f :: .elapse 1 :: [] := by decide

theorem witness_SetOutputSetsTheLatchBit :
    let f : Bytes3 := ⟨0xEE#8, 0xEE#8, 0xEE#8⟩
    let s := ready (answersOk 4)
    Ready s ∧ SettlesIn s 1 ∧ Memory.wf s.mem = true ∧ s.params.regMap = regMapDefault ∧ s.params.verifyReadback = true ∧
      (0x40#8 : Byte).getLsbD 0 = false ∧ pinDecode 3#8 = some (.A, 3#3) ∧
      selectedDevices s.params s.present s.mem 0x40#8 = [0] ∧ (deviceIocon s.mem 0).getLsbD 7 = false ∧
      Memory.read s.mem (deviceAddr 0 (halfRegs regMapDefault .A).1) = 0x00#8 ∧
      s.inputs = .device f :: .elapse 1 :: .device f :: .elapse 1 :: .device f :: .elapse 1 :: .device f :: .elapse 1 :: [] := by
  decide

theorem witness_ConfigureIsTwoPasses : ∀ a ∈ Config.bankList, a.getLsbD 0 = false := by decide

/-- Each clause at the ends of its range. -/
theorem witness_AssembledCommandsDecode :
    (254 ≤ 255 ∧ 254 % 2 = 0 ∧ 255 ≤ 255) ∧ (255 < 256 ∧ 255 % 2 = 1) := by decide

end Sys2Proof.Tests
end

section
/-!
PROOFS. The statements of 20_memory.md: the wire order of a frame's bits (R53, R54, R161) and which reference devices a frame
selects (R70, R71).
-/
namespace Sys2Proof.Machine

/-- Bit `j` of byte `i` on the wire is bit `7 - j` of that byte (R54). -/
theorem wireBit_eight_mul_add (b : Bytes3) (i : Nat) {j : Nat} (hj : j < 8) :
    wireBit b (8 * i + j) = (byteAt b i).getLsbD (7 - j) := by
  have hbyte : (8 * i + j) / 8 = i := by omega
  have hbit : (8 * i + j) % 8 = j := by omega
  rw [wireBit, hbyte, hbit]

/-- Settles O10: the bits of the wire are those of bytes 0, 1 and 2 in turn. -/
theorem wireOrderIsMsbFirst : Obligations.WireOrderIsMsbFirst := by
  intro b j hj
  have hfirst : wireBit b j = b.b0.getLsbD (7 - j) := by
    simpa [byteAt] using wireBit_eight_mul_add b 0 hj
  exact ⟨hfirst, wireBit_eight_mul_add b 1 hj, wireBit_eight_mul_add b 2 hj⟩

/-- A three-bit field names the device `hw` exactly when it holds the number `hw`. -/
theorem eq_ofNat_three_iff (x : BitVec 3) {hw : Nat} (h : hw < 8) : x = BitVec.ofNat 3 hw ↔ x.toNat = hw := by
  rw [← BitVec.toNat_inj, BitVec.toNat_ofNat, Nat.mod_eq_of_lt h]

/-- A device with HAEN = 1 is selected by its own number (R71). -/
theorem selectsDevice_of_haen1 (p : Params) {m : Memory} (b : Byte) {hw : Nat} (h : hw < 8)
    (hh : (deviceIocon m hw).getLsbD 3 = true) :
    selectsDevice p m b hw = true ↔ b.extractLsb' 4 4 = 0b0100#4 ∧ (b.extractLsb' 1 3).toNat = hw := by
  rw [← eq_ofNat_three_iff _ h]
  rw [selectsDevice, hh]
  simp

/-- A device with HAEN = 0 is selected by the number 0, in the reading `onlyZero` of R71. -/
theorem selectsDevice_of_haen0 {p : Params} {m : Memory} (b : Byte) {hw : Nat} (hp : p.haenZero = .onlyZero)
    (hh : (deviceIocon m hw).getLsbD 3 = false) :
    selectsDevice p m b hw = true ↔ b.extractLsb' 4 4 = 0b0100#4 ∧ b.extractLsb' 1 3 = 0b000#3 := by
  rw [selectsDevice, hh, hp]
  simp

/-- The devices selected are those on the bus, of the eight hardware addresses, that the byte selects. -/
theorem mem_selectedDevices (p : Params) (present : BitVec 8) (m : Memory) (b : Byte) (hw : Nat) :
    hw ∈ selectedDevices p present m b ↔
      hw < 8 ∧ present.getLsbD hw = true ∧ selectsDevice p m b hw = true := by
  have hrange : hw ∈ [0, 1, 2, 3, 4, 5, 6, 7] ↔ hw < 8 := List.mem_range (n := 8)
  rw [selectedDevices, List.mem_filter, hrange, Bool.and_eq_true]

/-- Settles O50, by the value of HAEN of the device. -/
theorem selectionByPinsAndHaen : Obligations.SelectionByPinsAndHaen := by
  intro p m b hw hp h8
  refine ⟨?_, fun present => ?_⟩
  · cases hh : (deviceIocon m hw).getLsbD 3 with
    | true => simp [selectsDevice_of_haen1 p b h8 hh]
    | false => simp [selectsDevice_of_haen0 b hp hh]
  · rw [mem_selectedDevices, and_iff_right h8]

end Sys2Proof.Machine
end

section
/-!
PROOFS. The statements of 30_encoding.md: what the decoder of R95 can answer, and the operand fields of R91.
-/
namespace Sys2Proof

/-- Inversion of the decoder (R92, R95): a word that decodes matches the pattern of one command, and decodes to that command
on its own fields. -/
theorem decodeCommand_ok_cases {w : CmdWord} {i : Instr} (h : decodeCommand w = .ok i) :
    (w &&& 0xFF010000#32 = 0x00000000#32 ∧ i = .regWrite w.addrField w.regField w.valField) ∨
    (w &&& 0xFF0100FF#32 = 0x40000000#32 ∧ i = .regRead w.addrField w.regField) ∨
    (w &&& 0xFF0100FE#32 = 0x80000000#32 ∧ i = .setOutput w.addrField w.regField (w.getLsbD 0)) := by
  unfold decodeCommand at h
  split at h
  next hw => cases h; exact .inl ⟨hw, rfl⟩
  next =>
    split at h
    next hr => cases h; exact .inr (.inl ⟨hr, rfl⟩)
    next =>
      split at h
      next hs => cases h; exact .inr (.inr ⟨hs, rfl⟩)
      next => cases h

end Sys2Proof

namespace Sys2Proof.Machine

/-- Settles O5: of the decoder's three answers only one has the command's constructor, and its operands are the fields. -/
theorem operandsAreTheFields : Obligations.OperandsAreTheFields := by
  intro w
  refine ⟨fun a r v h => ?_, fun a r h => ?_, fun a p d h => ?_⟩
  · obtain ⟨-, ⟨⟩⟩ | ⟨-, ⟨⟩⟩ | ⟨-, ⟨⟩⟩ := decodeCommand_ok_cases h
    exact ⟨rfl, rfl, rfl⟩
  · obtain ⟨-, ⟨⟩⟩ | ⟨-, ⟨⟩⟩ | ⟨-, ⟨⟩⟩ := decodeCommand_ok_cases h
    exact ⟨rfl, rfl⟩
  · obtain ⟨-, ⟨⟩⟩ | ⟨-, ⟨⟩⟩ | ⟨-, ⟨⟩⟩ := decodeCommand_ok_cases h
    exact ⟨rfl, rfl, rfl⟩

end Sys2Proof.Machine
end

section
/-!
PROOFS. The statements of 40_register_map.md: the pin's half and bit (R128), and which bits ApplyBit changes (R131, R133).
-/
namespace Sys2Proof.Machine

/-- The guard of PinDecode, on numbers. -/
theorem gt_fifteen_iff (p : Byte) : p > 15#8 ↔ 15 < p.toNat := BitVec.lt_def

/-- A pin above 15 is Invalid (R128). -/
theorem pinDecode_of_gt {p : Byte} (h : 15 < p.toNat) : pinDecode p = none :=
  if_pos ((gt_fifteen_iff p).mpr h)

/-- A pin up to 15 is split into bit 3, its half, and bits 2:0, its bit. -/
theorem pinDecode_of_le {p : Byte} (h : p.toNat ≤ 15) :
    pinDecode p = some (if p.getLsbD 3 then .B else .A, p.extractLsb' 0 3) :=
  if_neg fun hgt => Nat.not_lt.mpr h ((gt_fifteen_iff p).mp hgt)

/-- Up to 15, bit 3 of the pin is set exactly from 8 on. -/
theorem getLsbD_three_of_le {p : Byte} (h : p.toNat ≤ 15) : p.getLsbD 3 = decide (8 ≤ p.toNat) := by
  rw [BitVec.getLsbD, Nat.testBit_eq_decide_div_mod_eq, decide_eq_decide]
  omega

/-- Bits 2:0 of a byte are its remainder mod 8. -/
theorem extractLsb'_zero_three (p : Byte) : p.extractLsb' 0 3 = BitVec.ofNat 3 (p.toNat % 8) := by
  apply BitVec.eq_of_toNat_eq
  simp

/-- A pin up to 15 in the terms of R128: the half by the bound 8, the bit by the remainder mod 8. -/
theorem pinDecode_by_halves {p : Byte} (h : p.toNat ≤ 15) :
    pinDecode p = some (if 8 ≤ p.toNat then .B else .A, BitVec.ofNat 3 (p.toNat % 8)) := by
  simp only [pinDecode_of_le h, getLsbD_three_of_le h, extractLsb'_zero_three, decide_eq_true_eq]

/-- Settles O7, by the ranges of the pin. -/
theorem pinDecodeByHalves : Obligations.PinDecodeByHalves := by
  intro p
  refine ⟨pinDecode_of_gt, fun h7 => ?_, fun h8 h15 => ?_, pinDecode_of_le⟩
  · rw [pinDecode_by_halves (by omega), if_neg (by omega)]
  · rw [pinDecode_by_halves h15, if_pos h8]

/-- The mask of R130 has one bit set. -/
@[simp] theorem getLsbD_setMask (bit : BitVec 3) (j : Nat) : (setMask bit).getLsbD j = decide (j = bit.toNat) := by
  have hbit := bit.isLt
  rw [setMask, ← BitVec.twoPow_eq, BitVec.getLsbD_twoPow, decide_eq_true (by omega), Bool.true_and, decide_eq_decide, eq_comm]

/-- ApplyBit bit by bit (R133): the one bit has the desired state and every other is kept. -/
@[simp] theorem getLsbD_applyBit (prev : Byte) (bit : BitVec 3) (d : Bool) (j : Nat) :
    (applyBit prev bit d).getLsbD j = if j = bit.toNat then d else prev.getLsbD j := by
  by_cases hj : j = bit.toNat
  · cases d <;> simp [applyBit, clrMask, hj]
  · cases d with
    | true => simp [applyBit, hj]
    | false => simpa [applyBit, clrMask, hj] using BitVec.lt_of_getLsbD

/-- Of two ApplyBits on one bit the second decides. -/
@[simp] theorem applyBit_applyBit (prev : Byte) (bit : BitVec 3) (d e : Bool) :
    applyBit (applyBit prev bit d) bit e = applyBit prev bit e := by
  apply BitVec.eq_of_getLsbD_eq
  intro j _
  by_cases hj : j = bit.toNat <;> simp [hj]

/-- ApplyBit gives the byte back exactly when the bit has the desired state already. -/
theorem applyBit_eq_self_iff (prev : Byte) (bit : BitVec 3) (d : Bool) :
    applyBit prev bit d = prev ↔ prev.getLsbD bit.toNat = d := by
  constructor
  · intro h
    rw [← h, getLsbD_applyBit, if_pos rfl]
  · intro h
    apply BitVec.eq_of_getLsbD_eq
    intro j _
    by_cases hj : j = bit.toNat <;> simp [hj, h]

/-- Settles O8, bit by bit. -/
theorem applyBitChangesOneBit : Obligations.ApplyBitChangesOneBit := by
  intro prev bit d
  refine ⟨?_, fun j hj => ?_, applyBit_applyBit prev bit d d, ?_⟩
  · rw [getLsbD_applyBit, if_pos rfl]
  · rw [getLsbD_applyBit, if_neg hj]
  · rw [applyBit_applyBit, applyBit_eq_self_iff]

end Sys2Proof.Machine
end

section
/-!
PROOFS. The statements of 41_codec.md: what the encoders and the read decoder give (R151, R152, R154), and the frame that is
never answered (R160).
-/
namespace Sys2Proof.Machine

/-- Clearing bit 0 of a byte whose bit 0 is 0 already (the corner case of R151). -/
theorem and_clearBitZero_of_even {a : Byte} (h : a.getLsbD 0 = false) : a &&& 0xFE#8 = a := by
  apply BitVec.eq_of_getLsbD_eq
  intro j hj
  rw [BitVec.getLsbD_and]
  cases j with
  | zero => rw [h, Bool.false_and]
  | succ j =>
    have hmask : ∀ k < 7, (0xFE#8).getLsbD (k + 1) = true := by decide
    rw [hmask j (by omega), Bool.and_true]

/-- Settles O9: the codec's functions are those of R151, R152 and R154, and an even address keeps its bit 0. -/
theorem codecBuildsAndReadsFrames : Obligations.CodecBuildsAndReadsFrames :=
  fun _ _ _ _ => ⟨rfl, rfl, rfl, and_clearBitZero_of_even⟩

/-- A quiet input is no answer to a frame, whatever the frame. -/
theorem respond_of_quiet (p : Params) (present : BitVec 8) (m : Memory) (tx : Bytes3) {i : Input} (h : isQuiet i = true) :
    respond p present m tx i = .silent := by
  cases i with
  | lateAnswer a => rfl
  | elapse t => rfl
  | oracle a => cases h
  | device fill => cases h
  | deviceErr applied => cases h
  | reset draws => cases h

/-- A quiet input is no reset. -/
theorem isReset_of_quiet {i : Input} (h : isQuiet i = true) : isReset i = false := by
  cases i with
  | reset draws => cases h
  | _ => rfl

/-- With quiet inputs alone no reset is next. -/
theorem noResetNext_of_quiet {l : List Input} (h : ∀ i ∈ l, isQuiet i = true) : noResetNext l = true := by
  cases l with
  | nil => rfl
  | cons i rest => simp [noResetNext, isReset_of_quiet (h i List.mem_cons_self)]

/-- The wait for the transport uses quiet inputs up and waits on. -/
theorem awaitAnswerOn_of_quiet {l : List Input} (s : State) (h : ∀ i ∈ l, isQuiet i = true) :
    awaitAnswerOn l s = .waiting (withInputs [] s) := by
  induction l with
  | nil => rfl
  | cons i rest ih =>
    obtain ⟨hi, hrest⟩ := List.forall_mem_cons.mp h
    simp only [awaitAnswerOn, respond_of_quiet _ _ _ _ hi, isReset_of_quiet hi, ih hrest]

/-- A command whose frame is with the transport goes on with that transfer. -/
theorem continueCommand_of_xfer {s : State} (hph : s.ph ≠ .idle) (hsub : s.sub = .xfer) :
    continueCommand s = (resumeTransfer s).done afterFrame := by
  unfold continueCommand
  split
  next h => exact absurd h hph
  next => rfl
  next h _ => rw [hsub] at h; cases h

/-- A command is in progress with its frame at the transport, and the world brings neither an answer to it nor a reset
(R160). -/
structure Hung (s : State) : Prop where
  busy : s.rsp.busy = true
  ph : s.ph ≠ .idle
  sub : s.sub = .xfer
  quiet : ∀ i ∈ s.inputs, isQuiet i = true

/-- A hung block stays hung once the inputs are used up. -/
theorem Hung.withInputs_nil {s : State} (h : Hung s) : Hung (withInputs [] s) :=
  ⟨h.busy, h.ph, h.sub, List.forall_mem_nil _⟩

/-- A step of a hung block only uses the inputs up. -/
theorem Hung.step_eq {s : State} (h : Hung s) : step s = .next (withInputs [] s) := by
  have hdue : s.frameDue = false := by simp [State.frameDue, h.sub]
  have hwait : resumeTransfer s = .waiting (withInputs [] s) := by
    rw [resumeTransfer, awaitAnswer, awaitAnswerOn_of_quiet s h.quiet, FrameRun.andThen_waiting]
  rw [step_of_waiting h.busy (noResetNext_of_quiet h.quiet) hdue, continueCommand_of_xfer h.ph h.sub, hwait,
    FrameRun.done_waiting]

/-- A run of one step more is that step and the rest of the run. -/
theorem run_succ_of_step {s t : State} (h : step s = .next t) (k : Nat) :
    Sys2Proof.core.run (k + 1) s = Sys2Proof.core.run k t := by
  have hcore : Sys2Proof.core.step s = .next t := h
  simp only [Host.Core.run, hcore]

/-- However often it steps, a hung block changes nothing but the inputs still to come. -/
theorem Hung.run_eq {s : State} (h : Hung s) (k : Nat) : ∃ l, Sys2Proof.core.run k s = .next (withInputs l s) := by
  induction k generalizing s with
  | zero => exact ⟨s.inputs, rfl⟩
  | succ k ih =>
    obtain ⟨l, hl⟩ := ih h.withInputs_nil
    exact ⟨l, (run_succ_of_step h.step_eq k).trans hl⟩

/-- A reset at the head of the inputs is the step, whatever the block is doing. -/
theorem step_of_reset {s : State} {draws : List CutDraw} {rest : List Input} (h : s.inputs = .reset draws :: rest) :
    step s = .next (hostReset draws (withInputs rest s)) := by
  simp only [step, stepMachine, h]

/-- A reset is that of the block alone, but for what a frame cut short leaves in the devices (R241). -/
theorem hostReset_eq_resetBlock (draws : List CutDraw) (s : State) :
    ∃ m, hostReset draws s = resetBlock (withMem m s) := by
  unfold hostReset
  split
  next => exact ⟨s.mem, rfl⟩
  next => exact ⟨_, rfl⟩

/-- RSP after reset as the host reads it (R37). -/
theorem word_reset : State.reset.rsp.word = 0x07000000#32 := by decide

/-- Settles O23: quiet inputs are used up and the block waits on, by induction on the steps; a reset puts the reset values
there. -/
theorem hungFrameStaysForEver : Obligations.HungFrameStaysForEver := by
  intro s hbusy hph hsub hcs
  refine ⟨fun hquiet k => ?_, fun draws rest hreset => ?_⟩
  · have hung : Hung s := ⟨hbusy, hph, hsub, hquiet⟩
    obtain ⟨l, hrun⟩ := hung.run_eq k
    exact ⟨withInputs l s, hrun, hsub, hcs, rfl, rfl, rfl⟩
  · obtain ⟨m, hm⟩ := hostReset_eq_resetBlock draws (withInputs rest s)
    exact ⟨_, (step_of_reset hreset).trans (congrArg _ hm), word_reset, rfl, rfl⟩

end Sys2Proof.Machine
end

section
/-!
PROOFS. The statements of 42_chip_driver.md that end with no frame or with one: an illegal word (R186), a SET_OUTPUT of a pin
above 15 (R176), REG_WRITE (R173) and REG_READ (R174). A frame that comes back is said once, whether the command sent it in its
accepting step or waited for it (`CameBack`), and so is what `finish` makes of it (`CameBack.finish`).
-/
namespace Sys2Proof.Machine

/-- With no reset next and BUSY = 0, a step is the port's or the world's move. -/
theorem step_of_idle {s : State} (hbusy : s.rsp.busy = false) (hreset : noResetNext s.inputs = true) :
    step s = stepIdle s := by
  unfold step stepMachine
  split
  next h => rw [h] at hreset; cases hreset
  next h _ => rw [hbusy] at h; cases h
  next => rfl

/-- A word that decodes to no command means no instruction (R95). -/
theorem portInstr_of_illegal {w : CmdWord} (h : ∀ i, decodeCommand w ≠ .ok i) : portInstr w = none := by
  unfold portInstr
  cases hd : decodeCommand w with
  | error e => rfl
  | ok i => exact absurd hd (h i)

/-- An illegal word at the port of an idle block is taken and finishes at once (R186). -/
theorem step_of_illegal {s : State} {w : CmdWord} {ws : List CmdWord} (hbusy : s.rsp.busy = false)
    (hreset : noResetNext s.inputs = true) (hport : s.port = w :: ws) (h : ∀ i, decodeCommand w ≠ .ok i) :
    step s = .next (illegalCommand (takeWord s)) := by
  simp only [step_of_idle hbusy hreset, stepIdle, hport, portInstr_of_illegal h]

/-- RSP of an illegal word (R186). -/
theorem word_illegalCommand (s : State) : (illegalCommand s).rsp.word = 0x04000000#32 := by
  have hword : (finishedRsp .errIllegalCommand none none 0#3).word = 0x04000000#32 := by decide
  exact hword

/-- Settles O17: the step is `illegalCommand` on the state without the word, which writes RSP, PH and the frame counter. -/
theorem illegalWordFinishesAtOnce : Obligations.IllegalWordFinishesAtOnce := by
  intro s w ws hbusy hreset hport hillegal
  have htail : (takeWord s).port = ws := congrArg List.tail hport
  exact ⟨_, step_of_illegal hbusy hreset hport hillegal, word_illegalCommand _, rfl, htail, rfl, rfl, rfl, rfl, rfl, rfl, rfl, rfl⟩

/-- A SET_OUTPUT of a pin that is none ends at its pin check (R176). -/
theorem exec_setOutput_of_invalid {s : State} {a p : Byte} {d : Bool} (hbusy : s.rsp.busy = false) (hpin : pinDecode p = none) :
    exec (.setOutput a p d) s = .next (finish .errInvalidParam none none (latchSetOutput a p d s)) := by
  simp only [exec, execSetOutput, hbusy, hpin]

/-- Settles O26: a pin above 15 decodes to none, so the command finishes before any frame. -/
theorem setOutputRejectsPin : Obligations.SetOutputRejectsPin := by
  intro s a p d hbusy hpin
  have hword : (finishedRsp .errInvalidParam none none 0#3).word = 0x02000000#32 := by decide
  exact ⟨_, exec_setOutput_of_invalid hbusy (pinDecode_of_gt hpin), hword, rfl, rfl, rfl, rfl, rfl, rfl, rfl, rfl, rfl, rfl⟩

/-- `u` is `s` once a frame of its command has come back answered `a` and the settle time after it has passed: `n` frames are
counted, the trace has gained `events`, the devices are at `mem`, and `rest` is still to come from the world (R156). -/
structure CameBack (s u : State) (n : BitVec 3) (a : Answer) (events : List FrameEvent) (mem : Memory) (rest : List Input) :
    Prop where
  same : SameCommand s u
  csN : u.csN = true
  settled : u.settled = true
  nFrames : u.nFrames = n
  trace : u.trace = s.trace ++ events
  mem : u.mem = mem
  inputs : u.inputs = rest
  answer : lastAnswer u = a

section
variable {s u : State} {n : BitVec 3} {a : Answer} {events : List FrameEvent} {mem : Memory} {rest : List Input}

/-- A frame sent with nothing owed, answered by the next input and followed by time enough, comes back. -/
theorem frame_cameBack {tx : Bytes3} {i : Input} {t : Nat} (hcs : s.csN = true) (hset : s.settled = true)
    (ht : SettlesIn s t) (hin : s.inputs = i :: .elapse t :: rest) (hr : Replies s s.mem tx i a mem) :
    ∃ u, frame tx s = .returned u ∧ CameBack s u (s.nFrames + 1#3) a [⟨tx, a⟩] mem rest := by
  refine ⟨_, frame_of_reply hcs hset ht hin hr, ⟨rfl, rfl, rfl, rfl, rfl, rfl, rfl⟩, rfl, ?_, rfl, rfl, rfl, rfl, ?_⟩
  · rw [settled_since]
    exact Nat.ble_eq.mpr ht
  · cases a <;> rfl

/-- A command whose wait is over goes on from the frame that has come back. -/
theorem Resumed.cameBack {ph : Phase} (h : Resumed s ph a events mem rest) (hph : ph ≠ .idle) :
    ∃ u, step s = afterFrame u ∧ CameBack s u (framesAt ph) a events mem rest := by
  obtain ⟨u, hstep, hcs, hset, hsame, -, hn, htr, hmem, hin, ha⟩ := step_of_resumed hph h
  exact ⟨u, hstep, hsame, hcs, hset, hn, htr, hmem, hin, ha⟩

/-- A command whose wait is over has sent the frame of its phase: TX holds that request. -/
theorem Resumed.tx_eq {ph : Phase} (h : Resumed s ph a events mem rest) (hph : ph ≠ .idle) :
    some s.tx = requestOf (dueFrame s) := by
  obtain ⟨⟨-, -, -, hcount, -, -, -, -, -, -, htx, -, -⟩, rfl, hwait⟩ := h
  refine htx hph ?_
  rcases hwait with ⟨hsub, -, -⟩ | ⟨-, hn, -⟩
  · rcases hcount hph with hn | ⟨-, hsettle, -⟩
    · rw [hn]
      cases hp : s.ph with
      | idle => exact absurd hp hph
      | _ => decide
    · rw [hsub] at hsettle; cases hsettle
  · exact hn

/-- `finish` on a frame that has come back ends the command with the given result (R27). -/
theorem CameBack.finish (h : CameBack s u n a events mem rest) (code : Code) (r v : Option Byte) :
    CommandEnded s (finish code r v u) code r v n.toNat events mem rest := by
  have hrsp : (Machine.finish code r v u).rsp =
      ⟨false, r.isSome, v.isSome, code, BitVec.ofNat 4 n.toNat, v.getD 0x00#8, r.getD 0x00#8⟩ := by
    rw [finish_rsp, h.nFrames, BitVec.ofNat_toNat]; rfl
  exact ⟨hrsp, rfl, ⟨rfl, h.csN, h.settled⟩, h.trace, h.mem, h.inputs, h.same.params, h.same.port, h.same.present⟩

end

/-- REG_WRITE and REG_READ finish OK after an `Ok` answer, and with ERR_TRANSPORT after `Err` (R173, R174). -/
def singleFrameCode (a : Answer) : Code := if a = .err then .errTransport else .ok

@[simp] theorem singleFrameCode_ok (rx : Bytes3) : singleFrameCode (.ok rx) = .ok := rfl
@[simp] theorem singleFrameCode_err : singleFrameCode .err = .errTransport := rfl

/-- REG_WRITE after its frame, by the answer the frame got (R173). -/
theorem afterRegWrite_eq (u : State) : afterRegWrite u = .next (finish (singleFrameCode (lastAnswer u)) none none u) := by
  unfold afterRegWrite lastAnswer
  cases u.rxHeld <;> rfl

/-- REG_READ after its frame, by the answer the frame got (R174). -/
theorem afterRegRead_eq (u : State) :
    afterRegRead u = .next (finish (singleFrameCode (lastAnswer u)) (answerByte (lastAnswer u)) none u) := by
  unfold afterRegRead State.readValue lastAnswer
  cases u.rxHeld <;> rfl

/-- RSP of a command that finished after one frame with no result byte (R173). -/
theorem word_of_oneFrame (a : Answer) :
    Rsp.word ⟨false, false, false, singleFrameCode a, 1#4, 0x00#8, 0x00#8⟩ =
      if a = .err then 0x01010000#32 else 0x00010000#32 := by
  cases a with
  | ok rx =>
    rw [singleFrameCode_ok, if_neg nofun]
    decide
  | err => decide

/-- RSP that REG_READ reports, by its frame's answer: the third byte of an `Ok` response in RDATA (R174). -/
def regReadWord : Answer → BitVec 32
  | .err => 0x01010000#32
  | .ok rx => 0x40010000#32 ||| rx.b2.setWidth 32

/-- RSP of a REG_READ that finished after its frame, as the host reads it (R27, R174). -/
theorem word_of_oneRead (a : Answer) :
    Rsp.word ⟨false, (answerByte a).isSome, false, singleFrameCode a, 1#4, 0x00#8, (answerByte a).getD 0x00#8⟩ =
      regReadWord a := by
  cases a with
  | ok rx =>
    have hfields : Rsp.word ⟨false, true, false, .ok, 1#4, 0x00#8, rx.b2⟩ =
        Rsp.word ⟨false, true, false, .ok, 1#4, 0x00#8, 0x00#8⟩ ||| rx.b2.setWidth 32 := by simp [Rsp.word]
    have hword : Rsp.word ⟨false, true, false, .ok, 1#4, 0x00#8, 0x00#8⟩ = 0x40010000#32 := by decide
    exact hfields.trans (congrArg (· ||| rx.b2.setWidth 32) hword)
  | err => decide

section
variable {s u : State} {ans : Answer} {events : List FrameEvent} {mem : Memory} {rest : List Input}

/-- What REG_WRITE reports once its frame has come back (R173). -/
theorem CameBack.afterRegWrite (h : CameBack s u 1#3 ans events mem rest) :
    ∃ t, afterRegWrite u = .next t ∧ CommandEnded s t (singleFrameCode ans) none none 1 events mem rest ∧
      t.rsp.word = (if ans = .err then 0x01010000#32 else 0x00010000#32) ∧ t.cmd = s.cmd := by
  have hended := h.finish (singleFrameCode ans) none none
  refine ⟨_, h.answer ▸ afterRegWrite_eq u, hended, ?_, h.same.cmd⟩
  exact (congrArg Rsp.word hended.1).trans (word_of_oneFrame ans)

/-- What REG_READ reports once its frame has come back (R174). -/
theorem CameBack.afterRegRead (h : CameBack s u 1#3 ans events mem rest) :
    ∃ t, afterRegRead u = .next t ∧ CommandEnded s t (singleFrameCode ans) (answerByte ans) none 1 events mem rest ∧
      t.rsp.word = regReadWord ans ∧ t.cmd = s.cmd := by
  have hended := h.finish (singleFrameCode ans) (answerByte ans) none
  refine ⟨_, h.answer ▸ afterRegRead_eq u, hended, ?_, h.same.cmd⟩
  exact (congrArg Rsp.word hended.1).trans (word_of_oneRead ans)

end

/-- REG_WRITE offered to a block with BUSY = 0 latches its fields and sends its frame (R173). -/
theorem exec_regWrite_of_idle {s : State} (a r v : Byte) (hbusy : s.rsp.busy = false) :
    exec (.regWrite a r v) s = (frame (encWrite a r v) (latchRegWrite a r v s)).done afterRegWrite := by
  simp only [exec, execRegWrite, hbusy, writeReg]

/-- REG_READ offered to a block with BUSY = 0 latches its fields and sends its frame (R174). -/
theorem exec_regRead_of_idle {s : State} (a r : Byte) (hbusy : s.rsp.busy = false) :
    exec (.regRead a r) s = (frame (encRead a r) (latchRegRead a r s)).done afterRegRead := by
  simp only [exec, execRegRead, hbusy, readReg]

section
variable {s : State} (hph : s.ph = .fOne)
include hph

/-- The lines of REG_WRITE follow the frame of a command with OP = 0 (R173). -/
theorem afterFrame_of_regWrite (hop : s.cmd.op = 0#2) : afterFrame s = afterRegWrite s := by
  simp [afterFrame, hph, hop, commandOf]

/-- The lines of REG_READ follow the frame of a command with OP = 1 (R174). -/
theorem afterFrame_of_regRead (hop : s.cmd.op = 1#2) : afterFrame s = afterRegRead s := by
  simp [afterFrame, hph, hop, commandOf]

/-- The request of REG_WRITE is the write of its latched fields (R173). -/
theorem requestOf_dueFrame_of_regWrite (hop : s.cmd.op = 0#2) :
    requestOf (dueFrame s) = some (encWrite s.cmd.addr s.cmd.reg s.cmd.val) := by
  simp [dueFrame, hph, hop, commandOf, requestOf]

/-- The request of REG_READ is the read at its latched fields (R174). -/
theorem requestOf_dueFrame_of_regRead (hop : s.cmd.op = 1#2) :
    requestOf (dueFrame s) = some (encRead s.cmd.addr s.cmd.reg) := by
  simp [dueFrame, hph, hop, commandOf, requestOf]

end

/-- Settles O24: in the accepting step and after a wait, the one write frame comes back and `afterRegWrite` reports it. -/
theorem regWriteCompletes : Obligations.RegWriteCompletes := by
  refine ⟨fun s a r v i ans mem n rest hready hn hin hr => ?_, fun s ans events mem rest h hop => ?_⟩
  · obtain ⟨hbusy, hcs, hset⟩ := hready
    obtain ⟨u, hframe, hback⟩ := frame_cameBack (s := latchRegWrite a r v s) hcs hset hn hin hr
    obtain ⟨t, ht, hended, hword, hcmd⟩ := hback.afterRegWrite
    refine ⟨t, ?_, hended, hword, ?_⟩
    · rw [exec_regWrite_of_idle a r v hbusy, hframe, FrameRun.done_returned, ht]
    · rw [hcmd]; exact ⟨rfl, rfl, rfl, rfl⟩
  · obtain ⟨u, hstep, hback⟩ := h.cameBack (by decide)
    obtain ⟨t, ht, hended, hword, -⟩ := hback.afterRegWrite
    have ⟨_, hph, _⟩ := h
    have hgo := afterFrame_of_regWrite (hback.same.ph.trans hph) (hback.same.cmd ▸ hop)
    have htx := (h.tx_eq (by decide)).trans (requestOf_dueFrame_of_regWrite hph hop)
    exact ⟨t, hstep.trans (hgo.trans ht), hended, hword, Option.some.inj htx⟩

/-- Settles O25: in the accepting step and after a wait, the one read frame comes back and `afterRegRead` reports its byte. -/
theorem regReadCompletes : Obligations.RegReadCompletes := by
  refine ⟨fun s a r i ans mem n rest hready hn hin hr => ?_, fun s ans events mem rest h hop => ?_⟩
  · obtain ⟨hbusy, hcs, hset⟩ := hready
    obtain ⟨u, hframe, hback⟩ := frame_cameBack (s := latchRegRead a r s) hcs hset hn hin hr
    obtain ⟨t, ht, hended, hword, hcmd⟩ := hback.afterRegRead
    refine ⟨t, ?_, hended, hword, ?_⟩
    · rw [exec_regRead_of_idle a r hbusy, hframe, FrameRun.done_returned, ht]
    · rw [hcmd]; exact ⟨rfl, rfl, rfl⟩
  · obtain ⟨u, hstep, hback⟩ := h.cameBack (by decide)
    obtain ⟨t, ht, hended, hword, -⟩ := hback.afterRegRead
    have ⟨_, hph, _⟩ := h
    have hgo := afterFrame_of_regRead (hback.same.ph.trans hph) (hback.same.cmd ▸ hop)
    have htx := (h.tx_eq (by decide)).trans (requestOf_dueFrame_of_regRead hph hop)
    exact ⟨t, hstep.trans (hgo.trans ht), hended, hword, Option.some.inj htx⟩

end Sys2Proof.Machine
end

section
/-!
PROOFS. The statements of 30_encoding.md on the two formats: a word is its bytes (`commandWord`, `Bytes3.word`), so the masks of
R92, R96, R97 and the cases of R93 are read byte by byte, and decoding and encoding are inverse to each other.
-/
namespace Sys2Proof

@[simp] theorem topByte_commandWord (t a r v : Byte) : (commandWord t a r v).extractLsb' 24 8 = t := by
  apply BitVec.eq_of_getLsbD_eq
  intro i hi
  interval_cases i <;> simp [commandWord]

@[simp] theorem addrField_commandWord (t a r v : Byte) : CmdWord.addrField (commandWord t a r v) = a := by
  apply BitVec.eq_of_getLsbD_eq
  intro i hi
  interval_cases i <;> simp [CmdWord.addrField, commandWord]

@[simp] theorem regField_commandWord (t a r v : Byte) : CmdWord.regField (commandWord t a r v) = r := by
  apply BitVec.eq_of_getLsbD_eq
  intro i hi
  interval_cases i <;> simp [CmdWord.regField, commandWord]

@[simp] theorem valField_commandWord (t a r v : Byte) : CmdWord.valField (commandWord t a r v) = v := by
  apply BitVec.eq_of_getLsbD_eq
  intro i hi
  interval_cases i <;> simp [CmdWord.valField, commandWord]

/-- Bit 0 of a word is that of its low byte. -/
theorem getLsbD_zero_commandWord (t a r v : Byte) : (commandWord t a r v).getLsbD 0 = v.getLsbD 0 := by
  simp [commandWord]

/-- Every word is made of its four bytes (R90, R91). -/
theorem eq_commandWord (w : CmdWord) : w = commandWord (w.extractLsb' 24 8) w.addrField w.regField w.valField := by
  apply BitVec.eq_of_getLsbD_eq
  intro i hi
  interval_cases i <;> simp [commandWord, CmdWord.addrField, CmdWord.regField, CmdWord.valField]

/-- Two words are equal exactly when their bytes are. -/
theorem commandWord_inj {t a r v t' a' r' v' : Byte} :
    commandWord t a r v = commandWord t' a' r' v' ↔ t = t' ∧ a = a' ∧ r = r' ∧ v = v' := by
  refine ⟨fun h => ⟨?_, ?_, ?_, ?_⟩, by rintro ⟨rfl, rfl, rfl, rfl⟩; rfl⟩
  · simpa using congrArg (BitVec.extractLsb' 24 8) h
  · simpa using congrArg CmdWord.addrField h
  · simpa using congrArg CmdWord.regField h
  · simpa using congrArg CmdWord.valField h

/-- Masking works byte by byte. -/
theorem commandWord_and (t a r v t' a' r' v' : Byte) :
    commandWord t a r v &&& commandWord t' a' r' v' = commandWord (t &&& t') (a &&& a') (r &&& r') (v &&& v') := by
  apply BitVec.eq_of_getLsbD_eq
  intro i hi
  interval_cases i <;> simp [commandWord]

/-- Bit 0 alone, masked out of a byte. -/
theorem and_one_eq_zero_iff (a : Byte) : a &&& 0x01#8 = 0x00#8 ↔ a.getLsbD 0 = false := by
  revert a; decide

/-- A mask of R92, which keeps bits 31:24, bit 16 and some of bits 7:0, byte by byte. -/
theorem mask_iff (t a r v p m : Byte) :
    commandWord t a r v &&& commandWord 0xFF#8 0x01#8 0x00#8 m = commandWord p 0x00#8 0x00#8 0x00#8 ↔
      t = p ∧ a.getLsbD 0 = false ∧ v &&& m = 0x00#8 := by
  rw [commandWord_and, commandWord_inj, and_one_eq_zero_iff]
  have hff : t &&& 0xFF#8 = t := BitVec.and_allOnes
  simp [hff]

section
variable (t a r v : Byte)

/-- The pattern of REG_WRITE (R92). -/
theorem matches_regWrite_iff :
    commandWord t a r v &&& 0xFF010000#32 = 0x00000000#32 ↔ t = 0x00#8 ∧ a.getLsbD 0 = false := by
  have h := mask_iff t a r v 0x00#8 0x00#8
  simpa [show commandWord 0xFF#8 0x01#8 0x00#8 0x00#8 = 0xFF010000#32 by decide,
    show commandWord 0x00#8 0x00#8 0x00#8 0x00#8 = 0x00000000#32 by decide] using h

/-- The pattern of REG_READ (R92). -/
theorem matches_regRead_iff :
    commandWord t a r v &&& 0xFF0100FF#32 = 0x40000000#32 ↔ t = 0x40#8 ∧ a.getLsbD 0 = false ∧ v = 0x00#8 := by
  have h := mask_iff t a r v 0x40#8 0xFF#8
  have hff : v &&& 0xFF#8 = v := BitVec.and_allOnes
  rwa [hff, show commandWord 0xFF#8 0x01#8 0x00#8 0xFF#8 = 0xFF0100FF#32 by decide,
    show commandWord 0x40#8 0x00#8 0x00#8 0x00#8 = 0x40000000#32 by decide] at h

/-- The pattern of SET_OUTPUT (R92). -/
theorem matches_setOutput_iff :
    commandWord t a r v &&& 0xFF0100FE#32 = 0x80000000#32 ↔
      t = 0x80#8 ∧ a.getLsbD 0 = false ∧ v &&& 0xFE#8 = 0x00#8 := by
  have h := mask_iff t a r v 0x80#8 0xFE#8
  rwa [show commandWord 0xFF#8 0x01#8 0x00#8 0xFE#8 = 0xFF0100FE#32 by decide,
    show commandWord 0x80#8 0x00#8 0x00#8 0x00#8 = 0x80000000#32 by decide] at h

/-- A word of REG_WRITE decodes to it (R92, R95). -/
theorem decodeCommand_regWrite (ha : a.getLsbD 0 = false) :
    decodeCommand (commandWord 0x00#8 a r v) = .ok (.regWrite a r v) := by
  rw [decodeCommand, if_pos ((matches_regWrite_iff _ _ _ _).mpr ⟨rfl, ha⟩)]
  simp

/-- A word of REG_READ decodes to it (R92, R95). -/
theorem decodeCommand_regRead (ha : a.getLsbD 0 = false) :
    decodeCommand (commandWord 0x40#8 a r 0x00#8) = .ok (.regRead a r) := by
  rw [decodeCommand, if_neg (by simp [matches_regWrite_iff]), if_pos ((matches_regRead_iff _ _ _ _).mpr ⟨rfl, ha, rfl⟩)]
  simp

/-- A word of SET_OUTPUT decodes to it (R92, R95). -/
theorem decodeCommand_setOutput (d : Bool) (ha : a.getLsbD 0 = false) :
    decodeCommand (commandWord 0x80#8 a r (if d then 0x01#8 else 0x00#8)) = .ok (.setOutput a r d) := by
  have hlow : (if d then 0x01#8 else 0x00#8) &&& 0xFE#8 = 0x00#8 := by cases d <;> decide
  rw [decodeCommand, if_neg (by simp [matches_regWrite_iff]), if_neg (by simp [matches_regRead_iff]),
    if_pos ((matches_setOutput_iff _ _ _ _).mpr ⟨rfl, ha, hlow⟩), getLsbD_zero_commandWord]
  cases d <;> simp

end

/-- A request pattern is its three bytes (R96, R97). -/
@[simp] theorem bytes_word (b : Bytes3) : FrameWord.bytes b.word = b := by
  obtain ⟨b0, b1, b2⟩ := b
  simp only [FrameWord.bytes, Bytes3.word, Bytes3.mk.injEq]
  refine ⟨?_, ?_, ?_⟩ <;>
  · apply BitVec.eq_of_getLsbD_eq
    intro i hi
    interval_cases i <;> simp

@[simp] theorem word_bytes (f : FrameWord) : f.bytes.word = f := by
  apply BitVec.eq_of_getLsbD_eq
  intro i hi
  interval_cases i <;> simp [FrameWord.bytes, Bytes3.word]

theorem Bytes3.word_inj {b c : Bytes3} : b.word = c.word ↔ b = c :=
  ⟨fun h => by simpa using congrArg FrameWord.bytes h, congrArg _⟩

theorem Bytes3.word_and (b c : Bytes3) : b.word &&& c.word = Bytes3.word ⟨b.b0 &&& c.b0, b.b1 &&& c.b1, b.b2 &&& c.b2⟩ := by
  apply BitVec.eq_of_getLsbD_eq
  intro i hi
  interval_cases i <;> simp [Bytes3.word]

/-- The pattern of a write request: bit 0 of its first byte is 0 (R96). -/
theorem matches_writeFrame_iff (b : Bytes3) : b.word &&& 0x010000#24 = 0x000000#24 ↔ b.b0.getLsbD 0 = false := by
  have hm : Bytes3.word ⟨0x01#8, 0x00#8, 0x00#8⟩ = 0x010000#24 := by decide
  have hp : Bytes3.word ⟨0x00#8, 0x00#8, 0x00#8⟩ = 0x000000#24 := by decide
  rw [← hm, ← hp, Bytes3.word_and, Bytes3.word_inj, Bytes3.mk.injEq, and_one_eq_zero_iff]
  simp

/-- The pattern of a read request: bit 0 of its first byte is 1 and its third byte is DUMMY (R97). -/
theorem matches_readFrame_iff (b : Bytes3) :
    b.word &&& 0x0100FF#24 = 0x0100DB#24 ↔ b.b0.getLsbD 0 = true ∧ b.b2 = Config.dummy := by
  have hm : Bytes3.word ⟨0x01#8, 0x00#8, 0xFF#8⟩ = 0x0100FF#24 := by decide
  have hp : Bytes3.word ⟨0x01#8, 0x00#8, 0xDB#8⟩ = 0x0100DB#24 := by decide
  have hbit : ∀ a : Byte, a &&& 0x01#8 = 0x01#8 ↔ a.getLsbD 0 = true := by decide
  have hff : b.b2 &&& 0xFF#8 = b.b2 := BitVec.and_allOnes
  rw [← hm, ← hp, Bytes3.word_and, Bytes3.word_inj, Bytes3.mk.injEq, hbit, hff, Config.dummy]
  simp

/-- The decoder of request frames on three bytes: the read/write bit chooses, and the address is stored without it. -/
theorem decodeFrame_word (b : Bytes3) :
    decodeFrame b.word =
      if b.b0.getLsbD 0 = false then .ok (.writeFrame (b.b0 &&& 0xFE#8) b.b1 b.b2)
      else if b.b2 = Config.dummy then .ok (.readFrame (b.b0 &&& 0xFE#8) b.b1)
      else .error .notARequest := by
  have hb := bytes_word b
  simp only [FrameWord.bytes] at hb
  have h0 := congrArg Bytes3.b0 hb
  have h1 := congrArg Bytes3.b1 hb
  have h2 := congrArg Bytes3.b2 hb
  simp only at h0 h1 h2
  simp only [decodeFrame, matches_writeFrame_iff, matches_readFrame_iff, h0, h1, h2]
  cases b.b0.getLsbD 0 <;> simp

/-- Clearing bit 0 clears bit 0, whatever the other bits. -/
theorem getLsbD_zero_and_clear (a : Byte) : (a &&& 0xFE#8).getLsbD 0 = false := by simp

end Sys2Proof

namespace Sys2Proof.Machine

/-- Setting bit 0 of an even byte and clearing it again gives the byte back. -/
theorem or_one_and_clear_of_even {a : Byte} (h : a.getLsbD 0 = false) : (a ||| 0x01#8) &&& 0xFE#8 = a := by
  revert a; decide

/-- Clearing bit 0 of an odd byte and setting it again gives the byte back. -/
theorem and_clear_or_one_of_odd {a : Byte} (h : a.getLsbD 0 = true) : (a &&& 0xFE#8) ||| 0x01#8 = a := by
  revert a; decide

/-- Settles O1, by the row: each command's word carries its fields, each request its bytes. -/
theorem decodeOfEncode : Obligations.DecodeOfEncode := by
  intro i hi
  have heven : i.addr.getLsbD 0 = false := Laws.RowSelected.evenAddress hi
  cases i with
  | regWrite a r v => exact decodeCommand_regWrite a r v heven
  | regRead a r => exact decodeCommand_regRead a r heven
  | setOutput a p d => exact decodeCommand_setOutput a p d heven
  | writeFrame a r v =>
    have ha : a &&& 0xFE#8 = a := and_clearBitZero_of_even heven
    simp only [decode, encode, decodeFrame_word, ha]
    exact if_pos heven
  | readFrame a r =>
    have hodd : (a ||| 0x01#8).getLsbD 0 = true := by simp
    have ha : (a ||| 0x01#8) &&& 0xFE#8 = a := or_one_and_clear_of_even heven
    simp only [decode, encode, decodeFrame_word, ha, hodd]
    rfl

/-- An instruction is well-formed exactly when its chip address is even (R51, R94). -/
theorem wellFormed_iff (i : Instr) : i.wellFormed = true ↔ i.addr.getLsbD 0 = false := by
  rw [Instr.wellFormed, Bool.not_eq_true']

/-- A byte whose bits 7:1 are 0 is its bit 0. -/
theorem bitByte_of_clear {v : Byte} (h : v &&& 0xFE#8 = 0x00#8) : (if v.getLsbD 0 then 0x01#8 else 0x00#8) = v := by
  revert v; decide

/-- A command word that decodes is the encoding of a command with an even address. -/
theorem encode_of_decodeCommand {w : CmdWord} {i : Instr} (h : decodeCommand w = .ok i) :
    encode i = .cmd32 w ∧ i.wellFormed = true := by
  have hw := eq_commandWord w
  generalize w.extractLsb' 24 8 = t, w.addrField = a, w.regField = r, w.valField = v at hw
  subst hw
  rcases decodeCommand_ok_cases h with ⟨hm, rfl⟩ | ⟨hm, rfl⟩ | ⟨hm, rfl⟩
  · obtain ⟨rfl, ha⟩ := (matches_regWrite_iff _ _ _ _).mp hm
    exact ⟨by simp [encode], (wellFormed_iff _).mpr (by simpa [Instr.addr] using ha)⟩
  · obtain ⟨rfl, ha, rfl⟩ := (matches_regRead_iff _ _ _ _).mp hm
    exact ⟨by simp [encode], (wellFormed_iff _).mpr (by simpa [Instr.addr] using ha)⟩
  · obtain ⟨rfl, ha, hv⟩ := (matches_setOutput_iff _ _ _ _).mp hm
    refine ⟨?_, (wellFormed_iff _).mpr (by simpa [Instr.addr] using ha)⟩
    rw [encode, getLsbD_zero_commandWord, bitByte_of_clear hv]
    simp

/-- A request frame that decodes is the encoding of a frame with an even address. -/
theorem encode_of_decodeFrame {f : FrameWord} {i : Instr} (h : decodeFrame f = .ok i) :
    encode i = .frame24 f ∧ i.wellFormed = true := by
  obtain ⟨b, rfl⟩ : ∃ b : Bytes3, f = b.word := ⟨f.bytes, (word_bytes f).symm⟩
  have heven := getLsbD_zero_and_clear b.b0
  rw [decodeFrame_word] at h
  split at h
  next h0 =>
    cases h
    have hb : b.b0 &&& 0xFE#8 = b.b0 := and_clearBitZero_of_even h0
    exact ⟨by simp [encode, hb], (wellFormed_iff _).mpr heven⟩
  next h0 =>
    split at h
    next h2 =>
      cases h
      have hb : b.b0 &&& 0xFE#8 ||| 0x01#8 = b.b0 := and_clear_or_one_of_odd (by simpa using h0)
      exact ⟨by simp [encode, hb, ← h2], (wellFormed_iff _).mpr heven⟩
    next => cases h

/-- Settles O2, by the format. -/
theorem encodeOfDecode : Obligations.EncodeOfDecode := by
  intro e i h
  cases e with
  | cmd32 w => exact encode_of_decodeCommand h
  | frame24 f => exact encode_of_decodeFrame h

/-- The words that decode, by their bytes: an even address and the fixed bits of one of the three commands (R92). -/
theorem decodes_commandWord_iff (t a r v : Byte) :
    (∃ i, decodeCommand (commandWord t a r v) = .ok i) ↔
      a.getLsbD 0 = false ∧ (t = 0x00#8 ∨ (t = 0x40#8 ∧ v = 0x00#8) ∨ (t = 0x80#8 ∧ v &&& 0xFE#8 = 0x00#8)) := by
  constructor
  · rintro ⟨i, h⟩
    rcases decodeCommand_ok_cases h with ⟨hm, -⟩ | ⟨hm, -⟩ | ⟨hm, -⟩
    · obtain ⟨ht, ha⟩ := (matches_regWrite_iff _ _ _ _).mp hm
      exact ⟨ha, .inl ht⟩
    · obtain ⟨ht, ha, hv⟩ := (matches_regRead_iff _ _ _ _).mp hm
      exact ⟨ha, .inr (.inl ⟨ht, hv⟩)⟩
    · obtain ⟨ht, ha, hv⟩ := (matches_setOutput_iff _ _ _ _).mp hm
      exact ⟨ha, .inr (.inr ⟨ht, hv⟩)⟩
  · rintro ⟨ha, rfl | ⟨rfl, rfl⟩ | ⟨rfl, hv⟩⟩
    · exact ⟨_, decodeCommand_regWrite a r v ha⟩
    · exact ⟨_, decodeCommand_regRead a r ha⟩
    · exact ⟨_, bitByte_of_clear hv ▸ decodeCommand_setOutput a r (v.getLsbD 0) ha⟩

/-- The fields OP and RSV of R91 are the upper two and the lower six bits of the top byte. -/
theorem op_commandWord (t a r v : Byte) : (commandWord t a r v).extractLsb' 30 2 = t.extractLsb' 6 2 := by
  apply BitVec.eq_of_getLsbD_eq
  intro i hi
  interval_cases i <;> simp [commandWord]

theorem rsv_commandWord (t a r v : Byte) : (commandWord t a r v).extractLsb' 24 6 = t.extractLsb' 0 6 := by
  apply BitVec.eq_of_getLsbD_eq
  intro i hi
  interval_cases i <;> simp [commandWord]

theorem addrBit_commandWord (t a r v : Byte) : (commandWord t a r v).getLsbD 16 = a.getLsbD 0 := by
  simp [commandWord]

theorem lowBits_commandWord (t a r v : Byte) : (commandWord t a r v).extractLsb' 1 7 = v.extractLsb' 1 7 := by
  apply BitVec.eq_of_getLsbD_eq
  intro i hi
  interval_cases i <;> simp [commandWord]

/-- A top byte by its fields OP and RSV. -/
theorem topByte_eq_iff (t : Byte) :
    (t = 0x00#8 ↔ t.extractLsb' 6 2 = 0#2 ∧ t.extractLsb' 0 6 = 0#6) ∧
      (t = 0x40#8 ↔ t.extractLsb' 6 2 = 1#2 ∧ t.extractLsb' 0 6 = 0#6) ∧
      (t = 0x80#8 ↔ t.extractLsb' 6 2 = 2#2 ∧ t.extractLsb' 0 6 = 0#6) := by
  revert t; decide

/-- Bits 7:1 of a byte are 0 exactly when it is 0 but for its bit 0. -/
theorem clear_eq_zero_iff (v : Byte) : v &&& 0xFE#8 = 0x00#8 ↔ v.extractLsb' 1 7 = 0#7 := by
  revert v; decide

/-- The four values of OP (R90). -/
theorem op_cases (op : BitVec 2) : op = 0#2 ∨ op = 1#2 ∨ op = 2#2 ∨ op = 3#2 := by
  revert op; decide

/-- Settles O4: the bytes of a word that decodes, read as the fields OP, RSV, ADDR and the low bits that R93 names. -/
theorem illegalWordsAreTheListedOnes : Obligations.IllegalWordsAreTheListedOnes := by
  intro w
  have hw := eq_commandWord w
  have hval : ∀ t a r v : Byte, (commandWord t a r v).extractLsb' 0 8 = v := valField_commandWord
  generalize w.extractLsb' 24 8 = t, w.addrField = a, w.regField = r, w.valField = v at hw
  subst hw
  obtain ⟨h0, h1, h2⟩ := topByte_eq_iff t
  rw [← not_exists, decodes_commandWord_iff, h0, h1, h2, clear_eq_zero_iff, op_commandWord, rsv_commandWord,
    addrBit_commandWord, lowBits_commandWord, hval]
  -- each value of OP leaves one clause of either side, but for the parity of the address
  rcases op_cases (t.extractLsb' 6 2) with hop | hop | hop | hop <;> simp only [hop] <;>
    cases a.getLsbD 0 <;> simp [or_iff_not_imp_left]

/-- A command's word selects its command's row (R92). -/
theorem selects_row_of_decode {w : CmdWord} {i : Instr} (h : decodeCommand w = .ok i) : i.row.selects w = true := by
  rcases decodeCommand_ok_cases h with ⟨hm, rfl⟩ | ⟨hm, rfl⟩ | ⟨hm, rfl⟩ <;> exact beq_iff_eq.mpr hm

/-- A word that selects a row decodes to that row's command (R92). -/
theorem decodes_of_selects {w : CmdWord} {r : TableRow} (hr : r ∈ commandRows) (h : r.selects w = true) :
    ∃ i, decodeCommand w = .ok i ∧ i.row = r := by
  have hw := eq_commandWord w
  generalize w.extractLsb' 24 8 = t, w.addrField = a, w.regField = r', w.valField = v at hw
  subst hw
  rw [TableRow.selects, beq_iff_eq] at h
  simp only [commandRows, List.mem_cons, List.not_mem_nil, or_false] at hr
  rcases hr with rfl | rfl | rfl
  · obtain ⟨rfl, ha⟩ := (matches_regWrite_iff _ _ _ _).mp h
    exact ⟨_, decodeCommand_regWrite a r' v ha, rfl⟩
  · obtain ⟨rfl, ha, rfl⟩ := (matches_regRead_iff _ _ _ _).mp h
    exact ⟨_, decodeCommand_regRead a r' ha, rfl⟩
  · obtain ⟨rfl, ha, hv⟩ := (matches_setOutput_iff _ _ _ _).mp h
    exact ⟨_, bitByte_of_clear hv ▸ decodeCommand_setOutput a r' (v.getLsbD 0) ha, rfl⟩

/-- A list without repetitions whose members are all equal has at most one. -/
theorem length_le_one_of_nodup {α : Type} {l : List α} (hn : l.Nodup) (h : ∀ a ∈ l, ∀ b ∈ l, a = b) : l.length ≤ 1 := by
  match l with
  | [] => exact Nat.zero_le 1
  | [a] => exact Nat.le_refl 1
  | a :: b :: rest =>
    have hab : a = b := h a (by simp) b (by simp)
    simp [hab] at hn

/-- Settles O3: a word decodes to one command at most, and selects that command's row. -/
theorem commandWordsSelectOneRow : Obligations.CommandWordsSelectOneRow := by
  intro w
  refine ⟨length_le_one_of_nodup (List.Nodup.filter _ (by decide)) fun r hr r' hr' => ?_, fun r hr => ?_⟩
  · rw [List.mem_filter] at hr hr'
    obtain ⟨i, hi, rfl⟩ := decodes_of_selects hr.1 hr.2
    obtain ⟨j, hj, rfl⟩ := decodes_of_selects hr'.1 hr'.2
    rw [hi] at hj
    cases hj
    rfl
  · refine ⟨decodes_of_selects hr, ?_⟩
    rintro ⟨i, hi, rfl⟩
    exact selects_row_of_decode hi

/-- Settles O6: each word is the word of its bytes, and decodes as the words of its row do. -/
theorem writtenOutWordsDecode : Obligations.WrittenOutWordsDecode := by
  refine ⟨?_, ?_, ?_, ?_, ?_⟩
  · exact decodeCommand_regWrite 0x40#8 0x14#8 0x08#8 (by decide)
  · exact decodeCommand_regRead 0x40#8 0x14#8 (by decide)
  · exact decodeCommand_setOutput 0x40#8 3#8 true (by decide)
  · exact decodeFrame_word ⟨0x40#8, 0x14#8, 0x08#8⟩
  · exact decodeFrame_word ⟨0x41#8, 0x14#8, 0xDB#8⟩

/-! ### Host programs -/

/-- An operand that fits is its byte (R100). -/
theorem byteOperand_of_le {n : Nat} (h : n ≤ 255) : byteOperand n = .ok (BitVec.ofNat 8 n) := if_pos h

/-- An operand above 255 does not fit (R100). -/
theorem byteOperand_of_gt {n : Nat} (h : 255 < n) : byteOperand n = .error .tooBig := if_neg (Nat.not_le.mpr h)

/-- Bit 0 of an operand's byte is its parity. -/
theorem getLsbD_zero_ofNat (n : Nat) : (BitVec.ofNat 8 n).getLsbD 0 = decide (n % 2 = 1) := by
  rw [BitVec.getLsbD_ofNat, Nat.testBit_zero, decide_eq_true (by decide), Bool.true_and]

/-- An even address that fits is its byte (R100). -/
theorem addrOperand_of_even {n : Nat} (h : n ≤ 255) (he : n % 2 = 0) : addrOperand n = .ok (BitVec.ofNat 8 n) := by
  simp only [addrOperand, byteOperand_of_le h, getLsbD_zero_ofNat, he]
  rfl

/-- An odd address, or one that does not fit, is no address (R100). -/
theorem addrOperand_of_bad {n : Nat} (h : 255 < n ∨ n % 2 = 1) : ∃ e, addrOperand n = .error e := by
  by_cases hn : 255 < n
  · exact ⟨_, by rw [addrOperand, byteOperand_of_gt hn]⟩
  · have ho : n % 2 = 1 := h.resolve_left hn
    exact ⟨_, by simp only [addrOperand, byteOperand_of_le (Nat.not_lt.mp hn), getLsbD_zero_ofNat, ho]; rfl⟩

section
variable (m : RegMap) {addr val : Nat} {a r v : Byte} {reg : RegOperand}

/-- The word of a REG_WRITE line whose operands all fit (R100). -/
theorem asmRegWrite_of_ok (ha : addrOperand addr = .ok a) (hr : regOperand m reg = .ok r) (hv : byteOperand val = .ok v) :
    asmRegWrite m addr reg val = .ok (commandWord 0x00#8 a r v) := by
  simp only [asmRegWrite, ha, hr, hv]
  rfl

/-- The word of a REG_READ line whose operands fit (R100). -/
theorem asmRegRead_of_ok (ha : addrOperand addr = .ok a) (hr : regOperand m reg = .ok r) :
    asmRegRead m addr reg = .ok (commandWord 0x40#8 a r 0x00#8) := by
  simp only [asmRegRead, ha, hr, commandWord]
  exact congrArg Except.ok (BitVec.or_zero).symm

/-- The word of a SET_OUTPUT line whose operands fit (R100). -/
theorem asmSetOutput_of_ok {pin : Nat} (d : Bool) (ha : addrOperand addr = .ok a) (hp : byteOperand pin = .ok r) :
    asmSetOutput addr pin d = .ok (commandWord 0x80#8 a r (if d then 0x01#8 else 0x00#8)) := by
  simp only [asmSetOutput, ha, hp]
  cases d <;> rfl

end

section
variable (m : RegMap) (reg val : Nat) (d : Bool)

/-- A bad address gives no word, whatever the command (R100). -/
theorem no_word_of_bad_addr {addr : Nat} (h : ∃ e, addrOperand addr = .error e) :
    (∀ w, asmRegWrite m addr (.number reg) val ≠ .ok w) ∧ (∀ w, asmRegRead m addr (.number reg) ≠ .ok w) ∧
      (∀ w, asmSetOutput addr reg d ≠ .ok w) := by
  obtain ⟨e, he⟩ := h
  simp only [asmRegWrite, asmRegRead, asmSetOutput, he]
  exact ⟨nofun, nofun, nofun⟩

/-- A register offset or pin that does not fit gives no word, whatever the command (R100). -/
theorem no_word_of_big_reg (addr : Nat) {reg : Nat} (h : 255 < reg) :
    (∀ w, asmRegWrite m addr (.number reg) val ≠ .ok w) ∧ (∀ w, asmRegRead m addr (.number reg) ≠ .ok w) ∧
      (∀ w, asmSetOutput addr reg d ≠ .ok w) := by
  simp only [asmRegWrite, asmRegRead, asmSetOutput, regOperand, byteOperand_of_gt h]
  cases addrOperand addr <;> exact ⟨nofun, nofun, nofun⟩

/-- A value that does not fit gives no word (R100). -/
theorem no_word_of_big_val (addr : Nat) {val : Nat} (h : 255 < val) (w : CmdWord) :
    asmRegWrite m addr (.number reg) val ≠ .ok w := by
  simp only [asmRegWrite, byteOperand_of_gt h]
  cases addrOperand addr with
  | error e => exact nofun
  | ok a => cases regOperand m (.number reg) <;> exact nofun

end

/-- Settles O60: with operands that fit the word is that of the command's bytes, and each operand that does not fit stops the
line. -/
theorem assembledCommandsDecode : Obligations.AssembledCommandsDecode := by
  intro m addr reg val d
  refine ⟨?_, fun h => no_word_of_bad_addr m reg val d (addrOperand_of_bad h), no_word_of_big_reg m val d addr,
    no_word_of_big_val m reg addr⟩
  rintro ⟨ha, he, hr, hv⟩
  have heven : (BitVec.ofNat 8 addr).getLsbD 0 = false := by rw [getLsbD_zero_ofNat, he]; rfl
  have ha := addrOperand_of_even ha he
  have hr := byteOperand_of_le hr
  have hv := byteOperand_of_le hv
  exact ⟨⟨_, asmRegWrite_of_ok m ha hr hv, decodeCommand_regWrite _ _ _ heven⟩,
    ⟨_, asmRegRead_of_ok m ha hr, decodeCommand_regRead _ _ heven⟩,
    ⟨_, asmSetOutput_of_ok d ha hr, decodeCommand_setOutput _ _ d heven⟩⟩

/-- The lines that assemble give their words in order (R100). -/
theorem asmLines_of_ok {m : RegMap} {α : Type} (line : α → HostLine) (word : α → CmdWord) (l : List α)
    (h : ∀ x ∈ l, asmLine m (line x) = .ok (word x)) : asmLines m (l.map line) = .ok (l.map word) := by
  induction l with
  | nil => rfl
  | cons x rest ih =>
    obtain ⟨hx, hrest⟩ := List.forall_mem_cons.mp h
    simp only [List.map_cons, asmLines, hx, ih hrest]

/-- The words of two runs of lines, one after the other. -/
theorem asmLines_append {m : RegMap} {l l' : List HostLine} {ws ws' : List CmdWord} (h : asmLines m l = .ok ws)
    (h' : asmLines m l' = .ok ws') : asmLines m (l ++ l') = .ok (ws ++ ws') := by
  induction l generalizing ws with
  | nil => cases h; exact h'
  | cons x rest ih =>
    simp only [asmLines] at h
    split at h
    next w ws1 hw hws1 =>
      cases h
      simp only [List.cons_append, asmLines, hw, ih hws1]
    next => cases h
    next => cases h

/-- The write of a named register of an even address (R100, R103). -/
theorem asmLine_regWrite_name (m : RegMap) {a : Byte} (r : RegName) (v : Byte) (h : a.getLsbD 0 = false) :
    asmLine m (.regWrite a.toNat (.name r) v.toNat) = .ok (commandWord 0x00#8 a (regOffset m r) v) := by
  have he : a.toNat % 2 = 0 := by simpa [BitVec.getLsbD, Nat.testBit_zero] using h
  have ha := addrOperand_of_even (Nat.lt_succ_iff.mp a.isLt) he
  have hv := byteOperand_of_le (Nat.lt_succ_iff.mp v.isLt)
  rw [BitVec.ofNat_toNat, BitVec.setWidth_eq] at ha hv
  exact asmRegWrite_of_ok m ha rfl hv

/-- Settles O59: the first pass line by line, the second by induction on the addresses. -/
theorem configureIsTwoPasses : Obligations.ConfigureIsTwoPasses := by
  intro m addrs heven
  have hfirst : asmLines m ((addrs.map BitVec.toNat).map fun a => .regWrite a (.name .iocon) Config.ioconCfg.toNat) =
      .ok (addrs.map fun a => commandWord 0x00#8 a m.iocon 0x0C#8) := by
    rw [List.map_map]
    exact asmLines_of_ok _ _ addrs fun a ha => asmLine_regWrite_name m .iocon Config.ioconCfg (heven a ha)
  have hsecond : asmLines m ((addrs.map BitVec.toNat).flatMap fun a =>
        [.regWrite a (.name .iodirA) 0, .regWrite a (.name .iodirB) 0]) =
      .ok (addrs.flatMap fun a => [commandWord 0x00#8 a m.iodirA 0x00#8, commandWord 0x00#8 a m.iodirB 0x00#8]) := by
    clear hfirst
    induction addrs with
    | nil => rfl
    | cons a rest ih =>
      obtain ⟨ha, hrest⟩ := List.forall_mem_cons.mp heven
      have hA : asmLine m (.regWrite a.toNat (.name .iodirA) 0) = .ok (commandWord 0x00#8 a m.iodirA 0x00#8) :=
        asmLine_regWrite_name m .iodirA 0x00#8 ha
      have hB : asmLine m (.regWrite a.toNat (.name .iodirB) 0) = .ok (commandWord 0x00#8 a m.iodirB 0x00#8) :=
        asmLine_regWrite_name m .iodirB 0x00#8 ha
      refine asmLines_append (l := [_, _]) ?_ (ih hrest)
      simp only [asmLines, hA, hB]
  rw [assemble, List.flatMap_singleton]
  exact asmLines_append hfirst hsecond

end Sys2Proof.Machine
end

section
/-!
PROOFS. What a command does, said once. Between its frames a command makes one of a few moves: it finishes (`Finishes`) or has its
next frame due (`Proceeds`); `Runs` strings those moves together as far as the inputs reach. Every continuation and every accepted
command is such a run, so a statement about all of them is an outline of assertions (`Outline`), one for each point of a command.
-/
namespace Sys2Proof.Machine

/-- How a command ends whose frame has come back in `u` (R173, R174, R178-R183). -/
inductive Finishes (u : State) : State → Prop
  | regWrite : u.ph = .fOne → u.cmd.op = 0#2 → Finishes u (finish (singleFrameCode (lastAnswer u)) none none u)
  | regRead : u.ph = .fOne → u.cmd.op = 1#2 →
      Finishes u (finish (singleFrameCode (lastAnswer u)) (answerByte (lastAnswer u)) none u)
  | errored : u.ph = .fDir ∨ u.ph = .fLat ∨ u.ph = .fWr → Finishes u (finish .errTransport none none u)
  | mismatch {v : Byte} : u.ph = .fDir → v ≠ 0x00#8 →
      Finishes u (finish .errConfigMismatch (some v) none (directionValue v u))
  | written : u.ph = .fWr → Finishes u (finish .ok (some u.work.new) none u)
  | unverified : u.ph = .fVrb → Finishes u (finish .ok (some u.work.new) none u)
  | verified (y : Byte) : u.ph = .fVrb → Finishes u (finish .ok (some u.work.new) (some y) (verifyValue y u))

/-- How a SET_OUTPUT whose frame has come back in `u` has its next frame due (R178, R180-R183). -/
inductive Proceeds (u : State) : State → Prop
  | latchRead : u.ph = .fDir → u.readValue = some 0x00#8 → Proceeds u (withPhase .fLat (directionValue 0x00#8 u))
  | latchWrite {prev : Byte} : u.ph = .fLat → u.readValue = some prev → Proceeds u (newByte prev u)
  | verify : u.ph = .fWr → u.params.verifyReadback = true → Proceeds u (withPhase .fVrb u)

/-- From `v`, whose frame is due, the command runs to `t`: it waits there, or has finished. -/
inductive Runs : State → State → Prop
  | waits {v t : State} {tx : Bytes3} : requestOf (dueFrame v) = some tx → frame tx v = .waiting t → Runs v t
  | finishes {v u t : State} {tx : Bytes3} : requestOf (dueFrame v) = some tx → frame tx v = .returned u → Finishes u t →
      Runs v t
  | proceeds {v u w t : State} {tx : Bytes3} : requestOf (dueFrame v) = some tx → frame tx v = .returned u →
      Proceeds u w → Runs w t → Runs v t

/-- From `u`, whose frame has come back, the command goes on to `t`. -/
def GoesOn (u t : State) : Prop := Finishes u t ∨ ∃ w, Proceeds u w ∧ Runs w t

/-- A frame that is due and what follows it are a run. -/
theorem Runs.of_frame {v t : State} {tx : Bytes3} {k : State → Host.Outcome State Fault Refusal}
    (hv : requestOf (dueFrame v) = some tx) (h : (frame tx v).done k = .next t)
    (hk : ∀ u, frame tx v = .returned u → k u = .next t → GoesOn u t) : Runs v t := by
  rcases FrameRun.done_eq_next h with hw | ⟨u, hu, ht⟩
  · exact .waits hv hw
  · rcases hk u hu ht with hf | ⟨w, hp, hr⟩
    · exact .finishes hv hu hf
    · exact .proceeds hv hu hp hr

/-- A frame that returns is that of the phase it was sent in. -/
theorem ph_of_returned {tx : Bytes3} {v u : State} (h : frame tx v = .returned u) : u.ph = v.ph :=
  (frame_sameCommand (.inl h)).ph

section
variable {u t : State}

theorem goesOn_of_afterRegWrite (hph : u.ph = .fOne) (hop : u.cmd.op = 0#2) (h : afterRegWrite u = .next t) : GoesOn u t := by
  rw [afterRegWrite_eq] at h
  cases h
  exact .inl (.regWrite hph hop)

theorem goesOn_of_afterRegRead (hph : u.ph = .fOne) (hop : u.cmd.op = 1#2) (h : afterRegRead u = .next t) : GoesOn u t := by
  rw [afterRegRead_eq] at h
  cases h
  exact .inl (.regRead hph hop)

theorem goesOn_of_afterVerify (hph : u.ph = .fVrb) (h : afterVerify u = .next t) : GoesOn u t := by
  unfold afterVerify at h
  split at h
  next y _ => cases h; exact .inl (.verified y hph)
  next => cases h; exact .inl (.unverified hph)

theorem goesOn_of_afterLatchWrite (hph : u.ph = .fWr) (h : afterLatchWrite u = .next t) : GoesOn u t := by
  unfold afterLatchWrite at h
  split at h
  next => cases h; exact .inl (.errored (.inr (.inr hph)))
  next _ hv => exact .inr ⟨_, .verify hph hv, .of_frame rfl h fun _ hu => goesOn_of_afterVerify (ph_of_returned hu)⟩
  next => cases h; exact .inl (.written hph)

theorem goesOn_of_afterLatchRead (hph : u.ph = .fLat) (h : afterLatchRead u = .next t) : GoesOn u t := by
  unfold afterLatchRead at h
  split at h
  next prev hv =>
    exact .inr ⟨_, .latchWrite hph hv, .of_frame rfl h fun _ hu => goesOn_of_afterLatchWrite (ph_of_returned hu)⟩
  next => cases h; exact .inl (.errored (.inr (.inl hph)))

theorem goesOn_of_afterDirection (hph : u.ph = .fDir) (h : afterDirection u = .next t) : GoesOn u t := by
  unfold afterDirection at h
  split at h
  next v hv =>
    split at h
    next hz =>
      obtain rfl : v = 0x00#8 := beq_iff_eq.mp hz
      exact .inr ⟨_, .latchRead hph hv, .of_frame rfl h fun _ hu => goesOn_of_afterLatchRead (ph_of_returned hu)⟩
    next hz => cases h; exact .inl (.mismatch hph (beq_eq_false_iff_ne.mp hz))
  next => cases h; exact .inl (.errored (.inl hph))

/-- The operation that a value of C.OP stands for, the other way round (R90). -/
theorem commandOf_eq_write {op : BitVec 2} (h : commandOf op = some .write) : op = 0#2 := by
  revert op; decide

theorem commandOf_eq_read {op : BitVec 2} (h : commandOf op = some .read) : op = 1#2 := by
  revert op; decide

/-- What follows a frame is a finish or another run, whatever the phase. -/
theorem goesOn_of_afterFrame (h : afterFrame u = .next t) : GoesOn u t := by
  unfold afterFrame at h
  split at h
  next => cases h
  next hph =>
    split at h
    next hop => exact goesOn_of_afterRegWrite hph (commandOf_eq_write hop) h
    next hop => exact goesOn_of_afterRegRead hph (commandOf_eq_read hop) h
    next => cases h
    next => cases h
  next hph => exact goesOn_of_afterDirection hph h
  next hph => exact goesOn_of_afterLatchRead hph h
  next hph => exact goesOn_of_afterLatchWrite hph h
  next hph => exact goesOn_of_afterVerify hph h

end

/-- The host command `i` is accepted in `s` and has its first frame due in `v` (R170, R177). -/
inductive Accepts (s : State) : Instr → State → Prop
  | regWrite (a r v : Byte) : Accepts s (.regWrite a r v) (latchRegWrite a r v s)
  | regRead (a r : Byte) : Accepts s (.regRead a r) (latchRegRead a r s)
  | setOutput (a : Byte) {p : Byte} (d : Bool) {h : Half} {bit : BitVec 3} : pinDecode p = some (h, bit) →
      Accepts s (.setOutput a p d) (selectHalf h bit (latchSetOutput a p d s))

/-- A host command offered to a block with BUSY = 0 is refused for its pin, or accepted and run (R173-R175). -/
theorem exec_command_cases {s t : State} {i : Instr} (hi : isCommand i = true) (hbusy : s.rsp.busy = false)
    (h : exec i s = .next t) :
    (∃ a p d, i = .setOutput a p d ∧ pinDecode p = none ∧ t = finish .errInvalidParam none none (latchSetOutput a p d s)) ∨
      ∃ v, Accepts s i v ∧ Runs v t := by
  cases i with
  | regWrite a r v =>
    rw [exec_regWrite_of_idle a r v hbusy] at h
    refine .inr ⟨_, .regWrite a r v, .of_frame rfl h fun u hu => ?_⟩
    have hsame := frame_sameCommand (.inl hu)
    exact goesOn_of_afterRegWrite hsame.ph (congrArg Latched.op hsame.cmd)
  | regRead a r =>
    rw [exec_regRead_of_idle a r hbusy] at h
    refine .inr ⟨_, .regRead a r, .of_frame rfl h fun u hu => ?_⟩
    have hsame := frame_sameCommand (.inl hu)
    exact goesOn_of_afterRegRead hsame.ph (congrArg Latched.op hsame.cmd)
  | setOutput a p d =>
    cases hp : pinDecode p with
    | none =>
      rw [exec_setOutput_of_invalid hbusy hp] at h
      cases h
      exact .inl ⟨a, p, d, rfl, hp, rfl⟩
    | some hb =>
      simp only [exec, execSetOutput, hbusy, hp] at h
      exact .inr ⟨_, .setOutput a d hp, .of_frame rfl h fun u hu => goesOn_of_afterDirection (ph_of_returned hu)⟩
  | writeFrame a r v => cases hi
  | readFrame a r => cases hi

/-- The frame that a busy block has due, run as an instruction, is that request (R99; entry 9). -/
theorem exec_dueFrame (s : State) : ∃ tx, requestOf (dueFrame s) = some tx ∧ exec (dueFrame s) s = (frame tx s).done .next := by
  have h : ∀ i, isCommand i = false → ∃ tx, requestOf i = some tx ∧ exec i s = (frame tx s).done .next := by
    intro i hi
    cases i with
    | writeFrame a r v => exact ⟨_, rfl, rfl⟩
    | readFrame a r => exact ⟨_, rfl, rfl⟩
    | _ => cases hi
  refine h _ ?_
  unfold dueFrame
  split
  next => rfl
  next => split <;> rfl
  all_goals rfl

/-- A word that decodes is a host command. -/
theorem isCommand_of_decode {w : CmdWord} {i : Instr} (h : decodeCommand w = .ok i) : isCommand i = true := by
  rcases decodeCommand_ok_cases h with ⟨-, rfl⟩ | ⟨-, rfl⟩ | ⟨-, rfl⟩ <;> rfl

/-- A frame that is due is the first of its command, with nothing of it sent. -/
theorem frameDue_iff {s : State} : s.frameDue = true ↔ s.ph ≠ .idle ∧ s.sub = .settle ∧ s.nFrames = 0#3 := by
  simp [State.frameDue, and_assoc]

/-- Time passing settles what it settled before. -/
theorem settled_idleInput {s : State} {i : Input} (hi : isReset i = false) (hs : s.settled = true) :
    (idleInput i s).settled = true := by
  cases i with
  | elapse n =>
    simp only [idleInput, State.settled, passTime_st, passTime_params] at hs ⊢
    cases hst : s.st with
    | elapsed => rfl
    | since u =>
      rw [hst] at hs
      simp only [laterTimer_since, Nat.ble_eq] at hs ⊢
      omega
  | reset d => cases hi
  | _ => exact hs

/-- What a step can be, as far as the statements about every step tell its cases apart: a reset; a move of the command in progress;
an accepted command; an accepted illegal word; or nothing but time passing for an idle block. -/
theorem step_cases {s t : State} (h : step s = .next t) :
    (∃ draws rest, s.inputs = .reset draws :: rest ∧ t = hostReset draws (withInputs rest s)) ∨
    (s.rsp.busy = true ∧ stepBusy s = .next t) ∨
    (s.rsp.busy = false ∧ ∃ w i, decodeCommand w = .ok i ∧ exec i (takeWord s) = .next t) ∨
    (s.rsp.busy = false ∧ t = illegalCommand (takeWord s)) ∨
    (s.rsp.busy = false ∧ s.port = [] ∧ SameButTime s t ∧ (s.settled = true → t.settled = true)) := by
  rcases step_eq_next h with hr | ⟨-, hb, ht⟩ | ⟨-, hb, w, ws, i, -, hw, ht⟩ | ⟨-, hb, w, ws, -, -, ht⟩ |
    ⟨hb, hp, i, rest, -, hi, rfl⟩ | ⟨hb, hp, -, rfl⟩
  · exact .inl hr
  · exact .inr (.inl ⟨hb, ht⟩)
  · exact .inr (.inr (.inl ⟨hb, w, i, hw, ht⟩))
  · exact .inr (.inr (.inr (.inl ⟨hb, ht⟩)))
  · exact .inr (.inr (.inr (.inr ⟨hb, hp, (SameButTime.inputs rest s).trans (idleInput_sameButTime _ hi),
      settled_idleInput (s := withInputs rest s) hi⟩)))
  · exact .inr (.inr (.inr (.inr ⟨hb, hp, .refl _, id⟩)))

/-- What a step of a busy block can be: the frame that is due; a command that waited for the transport; or one that waited for the
settle time. -/
theorem stepBusy_cases {s t : State} (h : stepBusy s = .next t) :
    (s.frameDue = true ∧ ∃ tx, requestOf (dueFrame s) = some tx ∧ (frame tx s = .returned t ∨ frame tx s = .waiting t)) ∨
    (s.ph ≠ .idle ∧ s.sub = .xfer ∧ (resumeTransfer s = .waiting t ∨ ∃ u, resumeTransfer s = .returned u ∧ GoesOn u t)) ∨
    (s.ph ≠ .idle ∧ s.frameDue = false ∧ s.sub = .settle ∧
      (awaitSettle s = .waiting t ∨ ∃ u, awaitSettle s = .returned u ∧ GoesOn u t)) := by
  have hdone : ∀ f : FrameRun, f.done afterFrame = .next t → f = .waiting t ∨ ∃ u, f = .returned u ∧ GoesOn u t := by
    intro f hf
    rcases FrameRun.done_eq_next hf with hw | ⟨u, hu, ht⟩
    · exact .inl hw
    · exact .inr ⟨u, hu, goesOn_of_afterFrame ht⟩
  unfold stepBusy at h
  split at h
  next hd =>
    obtain ⟨tx, htx, he⟩ := exec_dueFrame s
    rw [he] at h
    rcases FrameRun.done_eq_next h with hw | ⟨u, hu, ⟨⟩⟩
    · exact .inl ⟨hd, tx, htx, .inr hw⟩
    · exact .inl ⟨hd, tx, htx, .inl hu⟩
  next hd =>
    unfold continueCommand at h
    split at h
    next => cases h
    next hsub hph => exact .inr (.inl ⟨hph, hsub, hdone _ h⟩)
    next hsub hph => exact .inr (.inr ⟨hph, hd, hsub, hdone _ h⟩)

/-- Assertions for the points of a command, each following from the one before: `Due` where the frame of the phase is due, `Back`
where it has come back, `End` where the command waits or has finished. -/
structure Outline (Due Back End : State → Prop) : Prop where
  returned : ∀ {v u tx}, Due v → requestOf (dueFrame v) = some tx → frame tx v = .returned u → Back u
  waiting : ∀ {v t tx}, Due v → requestOf (dueFrame v) = some tx → frame tx v = .waiting t → End t
  finished : ∀ {u t}, Back u → Finishes u t → End t
  proceeds : ∀ {u w}, Back u → Proceeds u w → Due w

section
variable {Due Back End : State → Prop} {s t u v : State}

/-- A run ends where the outline says. -/
theorem Outline.of_runs (O : Outline Due Back End) (h : Runs v t) (hv : Due v) : End t := by
  induction h with
  | waits htx hw => exact O.waiting hv htx hw
  | finishes htx hu hf => exact O.finished (O.returned hv htx hu) hf
  | proceeds htx hu hp _ ih => exact ih (O.proceeds (O.returned hv htx hu) hp)

theorem Outline.of_goesOn (O : Outline Due Back End) (h : GoesOn u t) (hu : Back u) : End t := by
  rcases h with hf | ⟨w, hp, hr⟩
  · exact O.finished hu hf
  · exact O.of_runs hr (O.proceeds hu hp)

end

end Sys2Proof.Machine
end

section
/-!
PROOFS. The block's invariant (10_state.md R20-R32, 42_chip_driver.md R175-R184): every step keeps it. It has a part about the
command (`CommandInv`), which no frame touches, and a part about its frame (`FrameInv`), which every frame restores.
-/
namespace Sys2Proof.Machine

/-- The part of `BlockInv` that speaks of PH, C.*, W.* and RSP only. -/
structure CommandInv (s : State) : Prop where
  busy : BusyIffPhase s
  op : OpOfPhase s
  addr : StoredAddress s
  half : HalfSelected s
  guard : GuardPassed s
  newByte : NewByteOfLatch s
  verify : VerifyEnabled s
  rsp : RspConsistent s.rsp

/-- The part of `BlockInv` that speaks of the frame and its settle time. -/
structure FrameInv (s : State) : Prop where
  cs : CsLowIffXfer s
  idle : IdleOwesNothing s
  counted : FramesCounted s
  tx : TxOfPhase s
  settled : SettledInXfer s

theorem blockInv_iff (s : State) : BlockInv s ↔ CommandInv s ∧ FrameInv s := by
  constructor
  · rintro ⟨h1, h2, h3, h4, h5, h6, h7, h8, h9, h10, h11, h12, h13⟩
    exact ⟨⟨h1, h5, h6, h7, h8, h9, h10, h13⟩, h2, h3, h4, h11, h12⟩
  · rintro ⟨⟨h1, h5, h6, h7, h8, h9, h10, h13⟩, h2, h3, h4, h11, h12⟩
    exact ⟨h1, h2, h3, h4, h5, h6, h7, h8, h9, h10, h11, h12, h13⟩

section
variable {s t u v w : State} {tx : Bytes3}

/-- What the frame procedure does not touch, `CommandInv` does not see. -/
theorem CommandInv.of_same (h : CommandInv s) (e : SameCommand s t) : CommandInv t := by
  obtain ⟨h1, h2, h3, h4, h5, h6, h7, h8⟩ := h
  refine ⟨?_, ?_, ?_, ?_, ?_, ?_, ?_, e.rsp ▸ h8⟩
  · simpa only [BusyIffPhase, e.rsp, e.ph] using h1
  · simpa only [OpOfPhase, e.cmd, e.ph] using h2
  · simpa only [StoredAddress, e.cmd, e.ph] using h3
  · simpa only [HalfSelected, e.cmd, e.ph, e.work, e.params] using h4
  · simpa only [GuardPassed, e.ph, e.work] using h5
  · simpa only [NewByteOfLatch, e.cmd, e.ph, e.work] using h6
  · simpa only [VerifyEnabled, e.ph, e.params] using h7

/-- The frame that a command has due depends on the command alone. -/
theorem dueFrame_of_same (e : SameCommand s t) : dueFrame t = dueFrame s := by
  simp only [dueFrame, e.ph, e.cmd, e.work]

/-- An idle block with nothing owed and a consistent report satisfies the invariant. -/
theorem blockInv_of_idle (hph : t.ph = .idle) (hb : t.rsp.busy = false) (hc : t.csN = true) (hs : t.settled = true)
    (hr : RspConsistent t.rsp) : BlockInv t := by
  refine (blockInv_iff t).mpr ⟨⟨?_, ?_, ?_, ?_, ?_, ?_, ?_, hr⟩, ?_, ?_, ?_, ?_, ?_⟩ <;>
    simp [BusyIffPhase, OpOfPhase, StoredAddress, HalfSelected, GuardPassed, NewByteOfLatch, VerifyEnabled, CsLowIffXfer,
      IdleOwesNothing, FramesCounted, TxOfPhase, SettledInXfer, hph, hb, hc, hs, Phase.ofSetOutput, Phase.pastGuard,
      Phase.pastNewByte]

/-- The command of `v` has the frame of its phase due, and may have to wait for settle time only before its first. -/
structure FrameDueInv (v : State) : Prop where
  command : CommandInv v
  ph : v.ph ≠ .idle
  csN : v.csN = true
  count : v.nFrames + 1#3 = framesAt v.ph
  owed : v.settled = false → v.nFrames = 0#3 ∧ v.sub = .settle

/-- The frame of the command's phase has been answered in `u`. -/
structure FrameSentInv (u : State) : Prop where
  command : CommandInv u
  ph : u.ph ≠ .idle
  csN : u.csN = true
  sub : u.sub = .settle
  count : u.nFrames = framesAt u.ph
  tx : some u.tx = requestOf (dueFrame u)

/-- A frame of some phase is counted. -/
theorem framesAt_ne_zero {ph : Phase} (h : ph ≠ .idle) : framesAt ph ≠ 0#3 := by
  cases ph with
  | idle => exact absurd rfl h
  | _ => decide

/-- The phases of a command's first frame. -/
theorem first_of_framesAt {ph : Phase} (h : framesAt ph = 1#3) : ph = .fOne ∨ ph = .fDir := by
  revert h; cases ph <;> decide

/-- Between its frame's answer and the next move the command satisfies the invariant. -/
theorem FrameSentInv.blockInv (h : FrameSentInv u) : BlockInv u := by
  obtain ⟨hcmd, hph, hcs, hsub, hn, htx⟩ := h
  refine (blockInv_iff u).mpr ⟨hcmd, ?_, ?_, ?_, ?_, ?_⟩
  · simp [CsLowIffXfer, hcs, hsub]
  · exact fun h => absurd h hph
  · exact fun _ => .inl hn
  · exact fun _ _ => htx
  · exact fun h => absurd (hcs.symm.trans h) (by decide)

/-- An answered frame of the phase that was due. -/
theorem FrameDueInv.sent (h : FrameDueInv v) (htx : requestOf (dueFrame v) = some tx) (ha : Answered tx (v.nFrames + 1#3) v t) :
    FrameSentInv t where
  command := h.command.of_same ha.same
  ph := ha.same.ph ▸ h.ph
  csN := ha.csN
  sub := ha.sub
  count := ha.nFrames.trans (h.count.trans (congrArg framesAt ha.same.ph.symm))
  tx := by rw [ha.sent, dueFrame_of_same ha.same, htx]

/-- A frame is launched with no settle time owed. -/
theorem settled_of_launched {n : BitVec 3} (h : frame tx v = .waiting t) (hc : v.csN = true) (hl : Launched tx n v t) :
    t.settled = true := by
  rcases frame_waiting h with ⟨hc', -⟩ | ⟨-, -, st, l, rfl⟩ | ⟨-, u, hu, -, ht⟩
  · rw [hc] at hc'; cases hc'
  · have := hl.csN; simp [hc] at this
  · rcases resumeTransfer_spec_waiting ht with ⟨l, rfl⟩ | ⟨-, ha⟩
    · exact hu
    · have := ha.csN; rw [hl.csN] at this; cases this

/-- A frame that is due and waits leaves the invariant: it owes settle time, is with the transport, or has been answered. -/
theorem FrameDueInv.waiting (h : FrameDueInv v) (htx : requestOf (dueFrame v) = some tx) (hw : frame tx v = .waiting t) :
    BlockInv t := by
  rcases frame_spec_waiting hw with ⟨hc, -⟩ | ⟨hc, hs, -, ht⟩ | ⟨hc, hl⟩ | ⟨-, -, ha⟩
  · rw [h.csN] at hc; cases hc
  · obtain ⟨hn, hsub⟩ := h.owed hs
    have hfirst : v.ph = .fOne ∨ v.ph = .fDir := first_of_framesAt (by rw [← h.count, hn]; decide)
    have hcmd := h.command.of_same ht.sameCommand
    obtain ⟨st, l, rfl⟩ := ht
    refine (blockInv_iff _).mpr ⟨hcmd, ?_, ?_, ?_, ?_, ?_⟩
    · simp [CsLowIffXfer, hc, hsub]
    · exact fun h' => absurd h' h.ph
    · exact fun _ => .inr ⟨hn, hsub, hfirst⟩
    · exact fun _ h' => absurd hn h'
    · exact fun h' => absurd (hc.symm.trans h') (by decide)
  · have hcount : t.nFrames = framesAt t.ph := hl.nFrames.trans (h.count.trans (congrArg framesAt hl.same.ph.symm))
    have hph : t.ph ≠ .idle := hl.same.ph ▸ h.ph
    refine (blockInv_iff t).mpr ⟨h.command.of_same hl.same, ?_, ?_, ?_, ?_, ?_⟩
    · simp [CsLowIffXfer, hl.csN, hl.sub, hph]
    · exact fun h' => absurd h' hph
    · exact fun _ => .inl hcount
    · exact fun _ _ => by rw [hl.sent, dueFrame_of_same hl.same, htx]
    · exact fun _ => settled_of_launched hw hc hl
  · exact (h.sent htx ha).blockInv

/-- A command that finishes leaves a consistent report (R29-R32, R211). -/
theorem Finishes.rspConsistent (h : Finishes u t) (hn : u.nFrames = framesAt u.ph) : RspConsistent t.rsp := by
  cases h with
  | regWrite hph _ => cases lastAnswer u <;> simp [RspConsistent, hn, hph, framesAt]
  | regRead hph _ => cases lastAnswer u <;> simp [RspConsistent, hn, hph, framesAt, answerByte]
  | errored hph => rcases hph with hph | hph | hph <;> simp [RspConsistent, hn, hph, framesAt]
  | mismatch hph hv => simp [RspConsistent, hn, hph, framesAt, hv]
  | written hph => simp [RspConsistent, hn, hph, framesAt]
  | unverified hph => simp [RspConsistent, hn, hph, framesAt]
  | verified y hph => simp [RspConsistent, hn, hph, framesAt]

/-- A command that finishes leaves the block idle, with the settle timer and CS_N as they were. -/
theorem Finishes.idle (h : Finishes u t) :
    t.ph = .idle ∧ t.rsp.busy = false ∧ t.csN = u.csN ∧ t.settled = u.settled := by
  cases h <;> exact ⟨rfl, rfl, rfl, rfl⟩

/-- The invariant's part about commands, in a phase of SET_OUTPUT. -/
theorem CommandInv.of_setOutput (hph : w.ph.ofSetOutput = true) (hb : w.rsp.busy = true) (hop : w.cmd.op = 2#2)
    (ha : w.cmd.addr.getLsbD 0 = false)
    (hh : pinDecode w.cmd.pin = some (w.work.half, w.work.bit) ∧
      halfRegs w.params.regMap w.work.half = (w.work.dirReg, w.work.latReg))
    (hg : GuardPassed w) (hn : NewByteOfLatch w) (hv : VerifyEnabled w) (hr : RspConsistent w.rsp) : CommandInv w where
  busy := ⟨fun _ h => by simp [h, Phase.ofSetOutput] at hph, fun _ => hb⟩
  op := ⟨fun h => by simp [h, Phase.ofSetOutput] at hph, fun _ => hop⟩
  addr := fun _ => ha
  half := fun _ => hh
  guard := hg
  newByte := hn
  verify := hv
  rsp := hr

/-- A command is in progress in every phase of SET_OUTPUT. -/
theorem ne_idle_of_ofSetOutput {ph : Phase} (h : ph.ofSetOutput = true) : ph ≠ .idle := by
  rintro rfl; cases h

/-- The phases from which a SET_OUTPUT goes on to another frame. -/
theorem Proceeds.ofSetOutput (h : Proceeds u w) : u.ph.ofSetOutput = true ∧ w.ph.ofSetOutput = true := by
  cases h with
  | latchRead hph _ => exact ⟨hph ▸ rfl, rfl⟩
  | latchWrite hph _ => exact ⟨hph ▸ rfl, rfl⟩
  | verify hph _ => exact ⟨hph ▸ rfl, rfl⟩

/-- The next frame of a SET_OUTPUT is due in a state that satisfies the invariant's part about commands. -/
theorem Proceeds.commandInv (h : Proceeds u w) (hu : CommandInv u) : CommandInv w := by
  have hset := h.ofSetOutput.1
  have hne := ne_idle_of_ofSetOutput hset
  have hb := hu.busy.mpr hne
  have hop := hu.op.2 hset
  have ha := hu.addr hne
  have hh := hu.half hset
  cases h with
  | latchRead hph _ => exact .of_setOutput rfl hb hop ha hh (fun _ => rfl) nofun nofun hu.rsp
  | latchWrite hph _ => exact .of_setOutput rfl hb hop ha hh (fun _ => hu.guard (hph ▸ rfl)) (fun _ => rfl) nofun hu.rsp
  | verify hph hv =>
    exact .of_setOutput rfl hb hop ha hh (fun _ => hu.guard (hph ▸ rfl)) (fun _ => hu.newByte (hph ▸ rfl)) (fun _ => hv) hu.rsp

/-- The frame that a SET_OUTPUT goes on to is the next of its frames, due with nothing owed. -/
theorem FrameSentInv.due (h : FrameSentInv u) (hs : u.settled = true) (hp : Proceeds u w) : FrameDueInv w := by
  have hcmd := hp.commandInv h.command
  have hph := ne_idle_of_ofSetOutput hp.ofSetOutput.2
  have hn := h.count
  cases hp with
  | latchRead hu _ => exact ⟨hcmd, hph, h.csN, by rw [withPhase_nFrames, directionValue_nFrames, hn, hu]; rfl, by simp [hs]⟩
  | latchWrite hu _ => exact ⟨hcmd, hph, h.csN, by rw [newByte_nFrames, hn, hu]; rfl, by simp [hs]⟩
  | verify hu _ => exact ⟨hcmd, hph, h.csN, by rw [withPhase_nFrames, hn, hu]; rfl, by simp [hs]⟩

/-- A command that finishes leaves the invariant. -/
theorem FrameSentInv.finished (h : FrameSentInv u) (hs : u.settled = true) (hf : Finishes u t) : BlockInv t := by
  obtain ⟨hph, hb, hc, hset⟩ := hf.idle
  exact blockInv_of_idle hph hb (hc.trans h.csN) (hset.trans hs) (hf.rspConsistent h.count)

end

/-- The outline of a command in the terms of the invariant. -/
theorem blockInv_outline : Outline FrameDueInv (fun u => FrameSentInv u ∧ u.settled = true) BlockInv where
  returned hv htx hu := ⟨hv.sent htx (frame_spec hu).2.2, (frame_spec hu).2.1⟩
  waiting hv htx hw := hv.waiting htx hw
  finished hu hf := hu.1.finished hu.2 hf
  proceeds hu hp := hu.1.due hu.2 hp

section
variable {s t u v : State} {i : Instr}

/-- An idle block with no frame and no settle time owed, as the invariant has it. -/
theorem BlockInv.idle (h : BlockInv s) (hb : s.rsp.busy = false) : s.ph = .idle ∧ s.csN = true ∧ s.settled = true := by
  obtain ⟨hcmd, hfr⟩ := (blockInv_iff s).mp h
  have hph : s.ph = .idle := by
    by_contra hne
    exact absurd (hb.symm.trans (hcmd.busy.mpr hne)) (by decide)
  refine ⟨hph, ?_, hfr.idle hph⟩
  by_contra hc
  exact (hfr.cs.mp (Bool.eq_false_iff.mpr hc)).1 hph

/-- A busy block is in some phase of a command. -/
theorem BlockInv.ph_ne_idle (h : BlockInv s) (hb : s.rsp.busy = true) : s.ph ≠ .idle :=
  ((blockInv_iff s).mp h).1.busy.mp hb

/-- An accepted command has its first frame due. -/
theorem Accepts.due (ha : Accepts s i v) (hs : BlockInv s) (hb : s.rsp.busy = false) (hi : i.wellFormed = true) :
    FrameDueInv v := by
  obtain ⟨-, hc, hset⟩ := hs.idle hb
  have hrsp : RspConsistent (busyRsp s.rsp) := ((blockInv_iff s).mp hs).1.rsp
  have heven : i.addr.getLsbD 0 = false := (wellFormed_iff i).mp hi
  cases ha with
  | regWrite a r v =>
    exact ⟨⟨⟨fun _ => nofun, fun _ => rfl⟩, ⟨fun _ => .inl rfl, nofun⟩, fun _ => heven, nofun, nofun, nofun, nofun, hrsp⟩,
      nofun, hc, rfl, fun _ => ⟨rfl, rfl⟩⟩
  | regRead a r =>
    exact ⟨⟨⟨fun _ => nofun, fun _ => rfl⟩, ⟨fun _ => .inr rfl, nofun⟩, fun _ => heven, nofun, nofun, nofun, nofun, hrsp⟩,
      nofun, hc, rfl, fun _ => ⟨rfl, rfl⟩⟩
  | setOutput a d hp => exact ⟨.of_setOutput rfl rfl rfl heven ⟨hp, rfl⟩ nofun nofun nofun hrsp, nofun, hc, rfl, fun _ => ⟨rfl, rfl⟩⟩

/-- A frame with the transport is the frame of the command's phase. -/
theorem BlockInv.xfer (h : BlockInv s) (hph : s.ph ≠ .idle) (hsub : s.sub = .xfer) :
    s.csN = false ∧ s.nFrames = framesAt s.ph ∧ some s.tx = requestOf (dueFrame s) := by
  obtain ⟨-, hfr⟩ := (blockInv_iff s).mp h
  have hn : s.nFrames = framesAt s.ph := by
    rcases hfr.counted hph with hn | ⟨-, hsettle, -⟩
    · exact hn
    · rw [hsub] at hsettle; cases hsettle
  exact ⟨hfr.cs.mpr ⟨hph, hsub⟩, hn, hfr.tx hph (hn ▸ framesAt_ne_zero hph)⟩

/-- A command that waits for settle time has its first frame due, or its frame answered. -/
theorem BlockInv.settle (h : BlockInv s) (hph : s.ph ≠ .idle) (hsub : s.sub = .settle) :
    (s.frameDue = true → FrameDueInv s) ∧ (s.frameDue = false → FrameSentInv s) := by
  obtain ⟨hcmd, hfr⟩ := (blockInv_iff s).mp h
  have hc : s.csN = true := by
    by_contra hc
    have := (hfr.cs.mp (Bool.eq_false_iff.mpr hc)).2
    rw [hsub] at this; cases this
  have hdue : s.frameDue = true ↔ s.nFrames = 0#3 := by simp [State.frameDue, hph, hsub]
  constructor
  · intro hd
    have hn := hdue.mp hd
    refine ⟨hcmd, hph, hc, ?_, fun _ => ⟨hn, hsub⟩⟩
    rcases hfr.counted hph with hn' | ⟨-, -, hp | hp⟩
    · exact absurd (hn'.symm.trans hn) (framesAt_ne_zero hph)
    · rw [hn, hp]; rfl
    · rw [hn, hp]; rfl
  · intro hd
    have hn : s.nFrames ≠ 0#3 := fun hn => absurd (hdue.mpr hn) (by simp [hd])
    refine ⟨hcmd, hph, hc, hsub, ?_, hfr.tx hph hn⟩
    exact (hfr.counted hph).resolve_right fun h' => hn h'.1

/-- The frame that a command waited for has been answered. -/
theorem BlockInv.answered (h : BlockInv s) (hph : s.ph ≠ .idle) (hsub : s.sub = .xfer) (ha : Answered s.tx s.nFrames s u) :
    FrameSentInv u := by
  obtain ⟨-, hn, htx⟩ := h.xfer hph hsub
  exact ⟨((blockInv_iff s).mp h).1.of_same ha.same, ha.same.ph ▸ hph, ha.csN, ha.sub, by rw [ha.nFrames, hn, ha.same.ph],
    by rw [ha.sent, dueFrame_of_same ha.same, htx]⟩

/-- Time passing leaves an answered frame answered. -/
theorem FrameSentInv.of_time (h : FrameSentInv u) (ht : SameButTime u t) : FrameSentInv t := by
  have hcmd := h.command.of_same ht.sameCommand
  obtain ⟨st, l, rfl⟩ := ht
  exact ⟨hcmd, h.ph, h.csN, h.sub, h.count, h.tx⟩

/-- A step of a command in progress keeps the invariant. -/
theorem BlockInv.of_stepBusy (h : BlockInv s) (ht : stepBusy s = .next t) : BlockInv t := by
  rcases stepBusy_cases ht with ⟨hd, tx, htx, hf⟩ | ⟨hph, hsub, hf⟩ | ⟨hph, hd, hsub, hf⟩
  · obtain ⟨hph, hsub, -⟩ := frameDue_iff.mp hd
    have hv := (h.settle hph hsub).1 hd
    rcases hf with hu | hw
    · exact (hv.sent htx (frame_spec hu).2.2).blockInv
    · exact hv.waiting htx hw
  · rcases hf with hw | ⟨u, hu, hg⟩
    · rcases resumeTransfer_spec_waiting hw with ⟨l, rfl⟩ | ⟨-, ha⟩
      · exact h
      · exact (h.answered hph hsub ha).blockInv
    · obtain ⟨hs, ha⟩ := resumeTransfer_spec hu
      exact blockInv_outline.of_goesOn hg ⟨h.answered hph hsub ha, hs⟩
  · have hsent := (h.settle hph hsub).2 hd
    rcases hf with hw | ⟨u, hu, hg⟩
    · exact (hsent.of_time (awaitSettle_waiting hw).2).blockInv
    · obtain ⟨hs, ht⟩ := awaitSettle_returned hu
      exact blockInv_outline.of_goesOn hg ⟨hsent.of_time ht, hs⟩

/-- RSP after reset, after an illegal word and after a pin that is none agrees with its code (R29-R32). -/
theorem rspConsistent_reset : RspConsistent Rsp.reset := by decide

theorem rspConsistent_illegal : RspConsistent (finishedRsp .errIllegalCommand none none 0#3) := by decide

theorem rspConsistent_invalidParam : RspConsistent (finishedRsp .errInvalidParam none none 0#3) := by decide

/-- A reset leaves the invariant, whatever it meets. -/
theorem blockInv_hostReset (draws : List CutDraw) (s : State) : BlockInv (hostReset draws s) := by
  obtain ⟨m, hm⟩ := hostReset_eq_resetBlock draws s
  rw [hm]
  exact blockInv_of_idle rfl rfl rfl rfl rspConsistent_reset

/-- An accepted command word keeps the invariant. -/
theorem BlockInv.of_command (h : BlockInv s) (hb : s.rsp.busy = false) {w : CmdWord} (hw : decodeCommand w = .ok i)
    (ht : exec i s = .next t) : BlockInv t := by
  obtain ⟨-, hc, hset⟩ := h.idle hb
  rcases exec_command_cases (isCommand_of_decode hw) hb ht with ⟨a, p, d, -, -, rfl⟩ | ⟨v, ha, hr⟩
  · exact blockInv_of_idle rfl rfl hc hset rspConsistent_invalidParam
  · exact blockInv_outline.of_runs hr (ha.due h hb (encode_of_decodeCommand hw).2)

end

/-- Settles O39, by what the step is: a command in progress or accepted keeps the invariant along its outline; every other step
leaves the block idle. -/
theorem stepKeepsBlockInv : Obligations.StepKeepsBlockInv := by
  intro s t hs h
  rcases step_cases h with ⟨draws, rest, -, rfl⟩ | ⟨-, ht⟩ | ⟨hb, w, i, hw, ht⟩ | ⟨hb, rfl⟩ | ⟨hb, -, ht, hkeep⟩
  · exact blockInv_hostReset draws _
  · exact hs.of_stepBusy ht
  · exact BlockInv.of_command (s := takeWord s) hs hb hw ht
  · obtain ⟨-, hc, hset⟩ := hs.idle hb
    exact blockInv_of_idle rfl rfl hc hset rspConsistent_illegal
  · obtain ⟨hph, hc, hset⟩ := hs.idle hb
    have hset' := hkeep hset
    obtain ⟨st, l, rfl⟩ := ht
    exact blockInv_of_idle hph hb hc hset' ((blockInv_iff s).mp hs).1.rsp

/-- Every step of a busy block is in the middle of a command that a rule continues, so none faults (entry 18). -/
theorem afterFrame_ne_fault {u : State} (h : CommandInv u) (hph : u.ph ≠ .idle) (f : Fault) : afterFrame u ≠ .fault f := by
  unfold afterFrame
  split
  next h' => exact absurd h' hph
  next h' =>
    rcases h.op.1 h' with hop | hop <;> rw [hop]
    · exact afterRegWrite_ne_fault u f
    · exact afterRegRead_ne_fault u f
  next => exact afterDirection_ne_fault u f
  next => exact afterLatchRead_ne_fault u f
  next => exact afterLatchWrite_ne_fault u f
  next => exact afterVerify_ne_fault u f

/-- No instruction faults. -/
theorem exec_ne_fault (i : Instr) (s : State) (f : Fault) : exec i s ≠ .fault f := by
  cases i with
  | regWrite a r v =>
    simp only [exec, execRegWrite]
    split
    · exact nofun
    · exact FrameRun.done_ne_fault fun u _ => afterRegWrite_ne_fault u f
  | regRead a r =>
    simp only [exec, execRegRead]
    split
    · exact nofun
    · exact FrameRun.done_ne_fault fun u _ => afterRegRead_ne_fault u f
  | setOutput a p d =>
    simp only [exec, execSetOutput]
    split
    · exact nofun
    · exact nofun
    · exact FrameRun.done_ne_fault fun u _ => afterDirection_ne_fault u f
  | writeFrame a r v => exact FrameRun.done_ne_fault fun _ _ => nofun
  | readFrame a r => exact FrameRun.done_ne_fault fun _ _ => nofun

/-- Settles O42: no instruction faults, and a command in progress is at a phase of its operation, past which the rules continue. -/
theorem noFaultUnderBlockInv : Obligations.NoFaultUnderBlockInv := by
  intro s f hs
  have hcmd := ((blockInv_iff s).mp hs).1
  unfold step stepMachine
  split
  next => exact nofun
  next hb _ =>
    have hph := hs.ph_ne_idle hb
    have hgo : ∀ u, SameCommand s u → afterFrame u ≠ .fault f := fun u hu =>
      afterFrame_ne_fault (hcmd.of_same hu) (hu.ph ▸ hph) f
    unfold stepBusy
    split
    · exact exec_ne_fault _ s f
    · unfold continueCommand
      split
      next h => exact absurd h hph
      next => exact FrameRun.done_ne_fault fun u hu => hgo u (resumeTransfer_sameCommand (.inl hu))
      next => exact FrameRun.done_ne_fault fun u hu => hgo u (awaitSettle_sameButTime (.inl hu)).sameCommand
  next =>
    unfold stepIdle
    split
    · split
      · exact exec_ne_fault _ _ f
      · exact nofun
    · split <;> exact nofun

/-- Settles O38: the reset state is idle and owes nothing; it is in no phase of a SET_OUTPUT, and lists no register. -/
theorem resetHasTheInvariants : Obligations.ResetHasTheInvariants :=
  ⟨blockInv_of_idle rfl rfl rfl rfl rspConsistent_reset, ⟨nofun, nofun, nofun, nofun⟩, rfl⟩

end Sys2Proof.Machine
end

section
/-!
PROOFS. What every step keeps and what a command leaves alone: device memory in canonical form (20_memory.md section 6), the
parameters and the host's words (R38, R170), and RSP, C.* and the order of the phases while BUSY is 1 (R21, R22, R27).
-/
namespace Sys2Proof.Machine

/-- What a frame does that returns or waits: it was answered, or it has sent nothing that anyone has answered. -/
theorem frame_answered_or_not {tx : Bytes3} {v t : State} (h : frame tx v = .returned t ∨ frame tx v = .waiting t) :
    Answered tx (v.nFrames + 1#3) v t ∨ (SameCommand v t ∧ t.trace = v.trace ∧ t.mem = v.mem) := by
  rcases h with h | h
  · exact .inl (frame_spec h).2.2
  · rcases frame_spec_waiting h with ⟨-, rfl⟩ | ⟨-, -, -, ht⟩ | ⟨-, hl⟩ | ⟨-, -, ha⟩
    · exact .inr ⟨.refl _, rfl, rfl⟩
    · have hsame := ht.sameCommand
      obtain ⟨st, l, rfl⟩ := ht
      exact .inr ⟨hsame, rfl, rfl⟩
    · exact .inr ⟨hl.same, hl.trace, hl.mem⟩
    · exact .inl ha

/-- The same of a frame that the transport has already. -/
theorem resumeTransfer_answered_or_not {s t : State} (h : resumeTransfer s = .returned t ∨ resumeTransfer s = .waiting t) :
    Answered s.tx s.nFrames s t ∨ (SameCommand s t ∧ t.trace = s.trace ∧ t.mem = s.mem) := by
  rcases h with h | h
  · exact .inl (resumeTransfer_spec h).2
  · rcases resumeTransfer_spec_waiting h with ⟨l, rfl⟩ | ⟨-, ha⟩
    · exact .inr ⟨⟨rfl, rfl, rfl, rfl, rfl, rfl, rfl⟩, rfl, rfl⟩
    · exact .inl ha

/-- An answer leaves the devices' memory canonical. -/
theorem Answered.wf {tx : Bytes3} {n : BitVec 3} {v t : State} (ha : Answered tx n v t) (h : Memory.wf v.mem = true) :
    Memory.wf t.mem = true := by
  obtain ⟨i, a, m, hr, -, rfl, -⟩ := ha.answer
  exact respond_wf h hr

/-- Everything a command does keeps device memory canonical: only an answer to a frame writes it. -/
theorem memory_kept : Kept fun s => Memory.wf s.mem = true where
  frame h hf := by
    rcases frame_answered_or_not hf with ha | ⟨-, -, hm⟩
    · exact ha.wf h
    · exact hm ▸ h
  resume h hf := by
    rcases resumeTransfer_answered_or_not hf with ha | ⟨-, -, hm⟩
    · exact ha.wf h
    · exact hm ▸ h
  settle h hf := by
    obtain ⟨st, l, rfl⟩ := awaitSettle_sameButTime hf
    exact h
  finish _ _ _ h := h
  phase _ h := h
  newByte _ h := h
  direction _ h := h
  verify _ h := h
  select _ _ h := h
  latchRegWrite _ _ _ h := h
  latchRegRead _ _ h := h
  latchSetOutput _ _ _ h := h

/-- A reset keeps device memory canonical, also where it cuts a frame short. -/
theorem hostReset_wf (draws : List CutDraw) {s : State} (h : Memory.wf s.mem = true) :
    Memory.wf (hostReset draws s).mem = true := by
  unfold hostReset
  split
  · exact h
  · exact cutDevices_wf _ _ _ _ h

/-- Settles O41, by what the step is: commands keep the form (`memory_kept`), a reset does, and nothing else writes memory. -/
theorem stepKeepsMemoryCanonical : Obligations.StepKeepsMemoryCanonical := by
  intro s t hs h
  rcases step_cases h with ⟨draws, rest, -, rfl⟩ | ⟨-, ht⟩ | ⟨-, w, i, -, ht⟩ | ⟨-, rfl⟩ | ⟨-, -, ⟨st, l, rfl⟩, -⟩
  · exact hostReset_wf draws hs
  · exact memory_kept.of_stepBusy hs ht
  · exact memory_kept.of_exec (s := takeWord s) hs ht
  · exact hs
  · exact hs

/-- `v` is a point of the command in progress in `s`, between its frames. -/
structure InCommand (s v : State) : Prop where
  cmd : v.cmd = s.cmd
  params : v.params = s.params
  port : v.port = s.port
  present : v.present = s.present
  rsp : v.rsp = s.rsp
  rank : s.ph.rank ≤ v.ph.rank
  latReg : v.work.latReg = s.work.latReg
  single : s.ph = .fOne → v.ph = .fOne ∧ v.work = s.work

/-- The command in progress in `s` waits in `t` or has finished there: what has become of everything but the frame and memory. -/
structure CommandMoved (s t : State) : Prop where
  cmd : t.cmd = s.cmd
  params : t.params = s.params
  port : t.port = s.port
  present : t.present = s.present
  work : s.ph = .fOne → t.work = s.work
  phase : (t.ph = .idle ∧ t.rsp.busy = false) ∨
    (t.rsp = s.rsp ∧ s.ph.rank ≤ t.ph.rank ∧ (s.ph = .fOne → t.ph = .fOne))

section
variable {s t u v w : State} {i : Instr}

theorem InCommand.refl (s : State) : InCommand s s := ⟨rfl, rfl, rfl, rfl, rfl, Nat.le_refl _, rfl, fun h => ⟨h, rfl⟩⟩

theorem InCommand.of_same (h : InCommand s v) (e : SameCommand v t) : InCommand s t :=
  ⟨e.cmd.trans h.cmd, e.params.trans h.params, e.port.trans h.port, e.present.trans h.present, e.rsp.trans h.rsp,
    e.ph ▸ h.rank, e.work ▸ h.latReg, fun hs => ⟨e.ph.trans (h.single hs).1, e.work.trans (h.single hs).2⟩⟩

theorem InCommand.moved (h : InCommand s v) : CommandMoved s v :=
  ⟨h.cmd, h.params, h.port, h.present, fun hs => (h.single hs).2, .inr ⟨h.rsp, h.rank, fun hs => (h.single hs).1⟩⟩

/-- A single-frame command goes on to no other frame, and a SET_OUTPUT to a later phase (R21). -/
theorem InCommand.proceeds (h : InCommand s u) (hp : Proceeds u w) : InCommand s w := by
  have hrank : u.ph.rank ≤ w.ph.rank := by
    cases hp with
    | latchRead hu _ => rw [hu]; exact Nat.le_succ 2
    | latchWrite hu _ => rw [hu]; exact Nat.le_succ 3
    | verify hu _ => rw [hu]; exact Nat.le_succ 4
  have hsingle : s.ph ≠ .fOne := fun hs => by
    have := hp.ofSetOutput.1
    rw [(h.single hs).1] at this
    cases this
  have hle := Nat.le_trans h.rank hrank
  cases hp <;>
    exact ⟨h.cmd, h.params, h.port, h.present, h.rsp, hle, h.latReg, fun hs => absurd hs hsingle⟩

theorem InCommand.finished (h : InCommand s u) (hf : Finishes u t) : CommandMoved s t := by
  have hone : ∀ {ph}, u.ph = ph → ph ≠ .fOne → s.ph ≠ .fOne := fun hu hne hs =>
    hne (hu.symm.trans (h.single hs).1)
  cases hf with
  | mismatch hu _ =>
    exact ⟨h.cmd, h.params, h.port, h.present, fun hs => absurd hs (hone hu (by decide)), .inl ⟨rfl, rfl⟩⟩
  | verified y hu =>
    exact ⟨h.cmd, h.params, h.port, h.present, fun hs => absurd hs (hone hu (by decide)), .inl ⟨rfl, rfl⟩⟩
  | _ => exact ⟨h.cmd, h.params, h.port, h.present, fun hs => (h.single hs).2, .inl ⟨rfl, rfl⟩⟩

/-- The outline of what a command leaves alone. -/
theorem moved_outline (s : State) : Outline (InCommand s) (InCommand s) (CommandMoved s) where
  returned hv _ hu := hv.of_same (frame_sameCommand (.inl hu))
  waiting hv _ hw := (hv.of_same (frame_sameCommand (.inr hw))).moved
  finished := InCommand.finished
  proceeds := InCommand.proceeds

/-- What a step of a busy block leaves alone. -/
theorem moved_of_stepBusy (h : stepBusy s = .next t) : CommandMoved s t := by
  have hs := InCommand.refl s
  rcases stepBusy_cases h with ⟨-, tx, -, hf⟩ | ⟨-, -, hw | ⟨u, hu, hg⟩⟩ | ⟨-, -, -, hw | ⟨u, hu, hg⟩⟩
  · exact (hs.of_same (frame_sameCommand hf)).moved
  · exact (hs.of_same (resumeTransfer_sameCommand (.inr hw))).moved
  · exact (moved_outline s).of_goesOn hg (hs.of_same (resumeTransfer_sameCommand (.inl hu)))
  · exact (hs.of_same (awaitSettle_waiting hw).2.sameCommand).moved
  · exact (moved_outline s).of_goesOn hg (hs.of_same (awaitSettle_returned hu).2.sameCommand)

/-- What the acceptance of a command does to what is not its own (R170). -/
theorem Accepts.keeps (h : Accepts s i v) :
    v.params = s.params ∧ v.port = s.port ∧ v.present = s.present ∧ v.rsp = busyRsp s.rsp ∧ v.trace = s.trace ∧ v.mem = s.mem := by
  cases h <;> exact ⟨rfl, rfl, rfl, rfl, rfl, rfl⟩

/-- What an accepted command has left alone, wherever it has got to. -/
theorem exec_command_keeps (hi : isCommand i = true) (hb : s.rsp.busy = false) (h : exec i s = .next t) :
    t.params = s.params ∧ t.port = s.port ∧ t.present = s.present ∧ (t.rsp.busy = true → t.rsp = busyRsp s.rsp) := by
  rcases exec_command_cases hi hb h with ⟨a, p, d, -, -, rfl⟩ | ⟨v, ha, hr⟩
  · exact ⟨rfl, rfl, rfl, nofun⟩
  · obtain ⟨h1, h2, h3, h4, -, -⟩ := ha.keeps
    have hm := (moved_outline v).of_runs hr (.refl v)
    refine ⟨hm.params.trans h1, hm.port.trans h2, hm.present.trans h3, fun hbusy => ?_⟩
    rcases hm.phase with ⟨-, hf⟩ | ⟨hrsp, -⟩
    · rw [hf] at hbusy; cases hbusy
    · exact hrsp.trans h4

/-- A busy RSP is its own report with BUSY set. -/
theorem busyRsp_of_busy {r : Rsp} (h : r.busy = true) : busyRsp r = r := by
  cases r; cases h; rfl

end

/-- Settles O15: a busy block's command touches no word, an accepted one only the first, and an idle block with no word has none. -/
theorem portAcceptsExactlyWhenIdle : Obligations.PortAcceptsExactlyWhenIdle := by
  intro s t h
  rcases step_cases h with ⟨draws, rest, hin, rfl⟩ | ⟨hb, ht⟩ | ⟨hb, w, i, hw, ht⟩ | ⟨hb, rfl⟩ | ⟨-, hp, ⟨st, l, rfl⟩, -⟩
  · refine ⟨fun _ => (hostReset_keeps draws (withInputs rest s)).2.1, fun _ hn => ?_⟩
    rw [hin] at hn; cases hn
  · exact ⟨fun _ => (moved_of_stepBusy ht).port, fun hb' => absurd (hb.symm.trans hb') (by decide)⟩
  · have hport := (exec_command_keeps (s := takeWord s) (isCommand_of_decode hw) hb ht).2.1
    exact ⟨fun hb' => absurd (hb.symm.trans hb') (by decide), fun _ _ => hport⟩
  · exact ⟨fun hb' => absurd (hb.symm.trans hb') (by decide), fun _ _ => rfl⟩
  · have hempty : s.port = s.port.tail := by rw [hp]; rfl
    exact ⟨fun _ => rfl, fun _ _ => hempty⟩

/-- Settles O44, by what the step is. -/
theorem parametersAreFixed : Obligations.ParametersAreFixed := by
  intro s t h
  rcases step_cases h with ⟨draws, rest, -, rfl⟩ | ⟨-, ht⟩ | ⟨hb, w, i, hw, ht⟩ | ⟨-, rfl⟩ | ⟨-, -, ⟨st, l, rfl⟩, -⟩
  · obtain ⟨h1, -, h2, -⟩ := hostReset_keeps draws (withInputs rest s)
    exact ⟨h1, h2⟩
  · exact ⟨(moved_of_stepBusy ht).params, (moved_of_stepBusy ht).present⟩
  · obtain ⟨h1, -, h2, -⟩ := exec_command_keeps (s := takeWord s) (isCommand_of_decode hw) hb ht
    exact ⟨h1, h2⟩
  · exact ⟨rfl, rfl⟩
  · exact ⟨rfl, rfl⟩

/-- A reset leaves BUSY 0 and PH in IDLE. -/
theorem hostReset_idle (draws : List CutDraw) (s : State) :
    (hostReset draws s).ph = .idle ∧ (hostReset draws s).rsp = Rsp.reset := by
  obtain ⟨m, hm⟩ := hostReset_eq_resetBlock draws s
  rw [hm]
  exact ⟨rfl, rfl⟩

/-- Settles O46: a command that still runs has written no field but BUSY, and every step that does leaves BUSY 0. -/
theorem rspStaysWhileBusy : Obligations.RspStaysWhileBusy := by
  intro s t h hbusy
  rcases step_cases h with ⟨draws, rest, -, rfl⟩ | ⟨hb, ht⟩ | ⟨hb, w, i, hw, ht⟩ | ⟨-, rfl⟩ | ⟨hb, -, ⟨st, l, rfl⟩, -⟩
  · rw [(hostReset_idle draws _).2] at hbusy; cases hbusy
  · rcases (moved_of_stepBusy ht).phase with ⟨-, hf⟩ | ⟨hrsp, -⟩
    · rw [hf] at hbusy; cases hbusy
    · exact hrsp.trans (busyRsp_of_busy hb).symm
  · exact (exec_command_keeps (s := takeWord s) (isCommand_of_decode hw) hb ht).2.2.2 hbusy
  · cases hbusy
  · exact absurd (hb.symm.trans hbusy) (by decide)

/-- A step of a busy block is a reset or a move of its command. -/
theorem step_busy_cases {s t : State} (hb : s.rsp.busy = true) (h : step s = .next t) :
    (t.ph = .idle ∧ t.rsp.busy = false) ∨ CommandMoved s t := by
  rcases step_cases h with ⟨draws, rest, -, rfl⟩ | ⟨-, ht⟩ | ⟨hf, -⟩ | ⟨hf, -⟩ | ⟨hf, -⟩
  · obtain ⟨h1, h2⟩ := hostReset_idle draws (withInputs rest s)
    exact .inl ⟨h1, h2 ▸ rfl⟩
  · exact .inr (moved_of_stepBusy ht)
  all_goals exact absurd (hb.symm.trans hf) (by decide)

/-- Settles O47: a command in progress writes no C.*, and a reset returns to IDLE. -/
theorem latchedFieldsStay : Obligations.LatchedFieldsStay := by
  intro s t hb h
  rcases step_busy_cases hb h with ⟨hph, -⟩ | hm
  · exact .inl hph
  · exact .inr hm.cmd

/-- Settles O48: each move of a command has finished it or goes on to a later phase. -/
theorem phaseNeverMovesBack : Obligations.PhaseNeverMovesBack := by
  intro s t hb h
  rcases step_busy_cases hb h with hidle | hm
  · exact .inl hidle
  · rcases hm.phase with hidle | ⟨-, hrank, hone⟩
    · exact .inl hidle
    · exact .inr ⟨hrank, hone⟩

end Sys2Proof.Machine
end

section
/-!
PROOFS. The trace of a command: how many frames it adds and of what form (R99, R185), and the guard and fresh latch read before a
SET_OUTPUT's write (R178, R180, R184).
-/
namespace Sys2Proof.Machine

/-- An answered frame stands at the end of the trace with the answer that RX holds (R156, R24). -/
theorem Answered.trace_eq {tx : Bytes3} {n : BitVec 3} {v t : State} (ha : Answered tx n v t) :
    t.trace = v.trace ++ [⟨tx, lastAnswer t⟩] := by
  obtain ⟨i, a, m, -, htr, -, hheld, hrx⟩ := ha.answer
  have hlast : lastAnswer t = a := by
    cases a <;> simp [lastAnswer, hheld, hrx]
  rw [htr, hlast]

/-- A request of R96 or R97: a read carries DUMMY in its third byte. -/
def IsRequest (tx : Bytes3) : Prop := tx.b0.getLsbD 0 = true → tx.b2 = 0xDB#8

/-- What an instruction puts on the bus is a request. -/
theorem isRequest_of_requestOf {i : Instr} {tx : Bytes3} (h : requestOf i = some tx) : IsRequest tx := by
  cases i with
  | writeFrame a r v => cases h; intro hodd; rw [encWrite, getLsbD_zero_and_clear] at hodd; cases hodd
  | readFrame a r => cases h; exact fun _ => rfl
  | _ => cases h

/-- The trace `tr` is `tr0` and at most `n` frames more, each a request. -/
def Emits (tr0 : List FrameEvent) (n : Nat) (tr : List FrameEvent) : Prop :=
  ∃ events, tr = tr0 ++ events ∧ events.length ≤ n ∧ ∀ e ∈ events, IsRequest e.tx

theorem Emits.refl (tr : List FrameEvent) (n : Nat) : Emits tr n tr := ⟨[], by simp, Nat.zero_le n, List.forall_mem_nil _⟩

theorem Emits.mono {tr0 tr : List FrameEvent} {m n : Nat} (h : Emits tr0 m tr) (hmn : m ≤ n) : Emits tr0 n tr := by
  obtain ⟨events, htr, hlen, hreq⟩ := h
  exact ⟨events, htr, Nat.le_trans hlen hmn, hreq⟩

theorem Emits.concat {tr0 tr : List FrameEvent} {n : Nat} {e : FrameEvent} (h : Emits tr0 n tr) (he : IsRequest e.tx) :
    Emits tr0 (n + 1) (tr ++ [e]) := by
  obtain ⟨events, rfl, hlen, hreq⟩ := h
  refine ⟨events ++ [e], by simp, by simpa using hlen, fun x hx => ?_⟩
  rcases List.mem_append.mp hx with hx | hx
  · exact hreq x hx
  · obtain rfl : x = e := by simpa using hx
    exact he

/-- The number of frames of a phase, as a number (R185). -/
def frameCount (ph : Phase) : Nat := (framesAt ph).toNat

theorem frameCount_le_four (ph : Phase) : frameCount ph ≤ 4 := by cases ph <;> decide

theorem frameCount_pos {ph : Phase} (h : ph ≠ .idle) : 1 ≤ frameCount ph := by
  cases ph with
  | idle => exact absurd rfl h
  | _ => decide

/-- Each frame of a SET_OUTPUT counts one more than the frame before it. -/
theorem Proceeds.frameCount {u w : State} (h : Proceeds u w) :
    Machine.frameCount w.ph = Machine.frameCount u.ph + 1 ∧ w.trace = u.trace := by
  cases h with
  | latchRead hu _ => rw [hu]; exact ⟨rfl, rfl⟩
  | latchWrite hu _ => rw [hu]; exact ⟨rfl, rfl⟩
  | verify hu _ => rw [hu]; exact ⟨rfl, rfl⟩

/-- No finish adds a frame. -/
theorem Finishes.trace {u t : State} (h : Finishes u t) : t.trace = u.trace := by cases h <;> rfl

/-- The outline of how many frames a command adds to `tr0`: never more than the frames of its phase. -/
theorem emits_outline (tr0 : List FrameEvent) :
    Outline (fun v => ∃ n, n + 1 = frameCount v.ph ∧ Emits tr0 n v.trace) (fun u => Emits tr0 (frameCount u.ph) u.trace)
      (fun t => Emits tr0 4 t.trace) where
  returned hv htx hu := by
    obtain ⟨n, hn, he⟩ := hv
    have ha := (frame_spec hu).2.2
    rw [ha.trace_eq, ha.same.ph, ← hn]
    exact he.concat (isRequest_of_requestOf htx)
  waiting {v _ _} hv htx hw := by
    obtain ⟨n, hn, he⟩ := hv
    have hle : n + 1 ≤ 4 := hn ▸ frameCount_le_four v.ph
    rcases frame_answered_or_not (.inr hw) with ha | ⟨-, htr, -⟩
    · rw [ha.trace_eq]
      exact (he.concat (isRequest_of_requestOf htx)).mono hle
    · rw [htr]
      exact he.mono (Nat.le_of_succ_le hle)
  finished {u _} hu hf := hf.trace ▸ hu.mono (frameCount_le_four u.ph)
  proceeds hu hp := ⟨_, hp.frameCount.1.symm, hp.frameCount.2 ▸ hu⟩

section
variable {s t v : State} {i : Instr}

/-- An accepted command has sent no frame yet, and its first is due. -/
theorem Accepts.frameCount (h : Accepts s i v) : Machine.frameCount v.ph = 1 ∧ v.trace = s.trace := by
  cases h <;> exact ⟨rfl, rfl⟩

/-- A host command adds at most four frames, all of them requests. -/
theorem emits_of_command (hi : isCommand i = true) (hb : s.rsp.busy = false) (h : exec i s = .next t) :
    Emits s.trace 4 t.trace := by
  rcases exec_command_cases hi hb h with ⟨a, p, d, -, -, rfl⟩ | ⟨v, ha, hr⟩
  · exact .refl _ _
  · exact (emits_outline s.trace).of_runs hr ⟨0, ha.frameCount.1.symm, ha.frameCount.2 ▸ .refl _ _⟩

/-- The frame with the transport is a request (R99). -/
theorem BlockInv.isRequest (h : BlockInv s) (hc : s.csN = false) : IsRequest s.tx := by
  obtain ⟨hph, hsub⟩ := ((blockInv_iff s).mp h).2.cs.mp hc
  exact isRequest_of_requestOf (h.xfer hph hsub).2.2.symm

/-- A command in progress adds at most four frames in a step, all of them requests. -/
theorem emits_of_stepBusy (hs : BlockInv s) (h : stepBusy s = .next t) : Emits s.trace 4 t.trace := by
  have hone : ∀ {tx : Bytes3} {a : Answer}, IsRequest tx → Emits s.trace 1 (s.trace ++ [⟨tx, a⟩]) := fun htx =>
    (Emits.refl s.trace 0).concat htx
  rcases stepBusy_cases h with ⟨hd, tx, htx, hf⟩ | ⟨hph, hsub, hf⟩ | ⟨hph, -, -, hf⟩
  · rcases frame_answered_or_not hf with ha | ⟨-, htr, -⟩
    · rw [ha.trace_eq]
      exact (hone (isRequest_of_requestOf htx)).mono (by decide)
    · exact htr ▸ .refl _ _
  · have htx := isRequest_of_requestOf (hs.xfer hph hsub).2.2.symm
    rcases hf with hw | ⟨u, hu, hg⟩
    · rcases resumeTransfer_answered_or_not (.inr hw) with ha | ⟨-, htr, -⟩
      · rw [ha.trace_eq]
        exact (hone htx).mono (by decide)
      · exact htr ▸ .refl _ _
    · have ha := (resumeTransfer_spec hu).2
      refine (emits_outline s.trace).of_goesOn hg ?_
      rw [ha.trace_eq, ha.same.ph]
      exact (hone htx).mono (frameCount_pos hph)
  · rcases hf with hw | ⟨u, hu, hg⟩
    · obtain ⟨st, l, rfl⟩ := (awaitSettle_waiting hw).2
      exact .refl _ _
    · obtain ⟨st, l, rfl⟩ := (awaitSettle_returned hu).2
      exact (emits_outline s.trace).of_goesOn hg (.refl _ _)

end

/-- Settles O45: a step adds frames only where a command runs, and a frame it leaves with the transport is in TX, as `BlockInv` of
the next state says. -/
theorem blockEmitsOnlyItsTwoRequests : Obligations.BlockEmitsOnlyItsTwoRequests := by
  intro s t hs h
  refine ⟨?_, (stepKeepsBlockInv s t hs h).isRequest⟩
  change Emits s.trace 4 t.trace
  rcases step_cases h with ⟨draws, rest, -, rfl⟩ | ⟨-, ht⟩ | ⟨hb, w, i, hw, ht⟩ | ⟨-, rfl⟩ | ⟨-, -, ⟨st, l, rfl⟩, -⟩
  · rw [(hostReset_keeps draws (withInputs rest s)).2.2.2.1]
    exact .refl _ _
  · exact emits_of_stepBusy hs ht
  · exact emits_of_command (s := takeWord s) (isCommand_of_decode hw) hb ht
  · exact .refl _ _
  · exact .refl _ _

/-! ### The guard and the fresh latch read -/

/-- Where a SET_OUTPUT has a frame due or with the transport: past its direction read the trace ends with that read answered 0x00
(R178), and before its write with the latch read besides (R180). -/
structure GuardDue (v : State) : Prop where
  latchRead : v.ph = .fLat → EndsWithGuard v v.trace
  latchWrite : v.ph = .fWr → EndsWithFreshLatch v v.trace

/-- Where a frame of a SET_OUTPUT has been answered: the trace ends with that read, and before the latch read with the guard. -/
structure GuardBack (u : State) : Prop where
  tx : some u.tx = requestOf (dueFrame u)
  direction : u.ph = .fDir → ∃ before, u.trace = before ++ [⟨u.tx, lastAnswer u⟩]
  latch : u.ph = .fLat → ∃ tr, u.trace = tr ++ [⟨u.tx, lastAnswer u⟩] ∧ EndsWithGuard u tr

section
variable {s t u v w : State} {tx : Bytes3} {n : BitVec 3} {tr : List FrameEvent}

theorem endsWithGuard_of_same (e : SameCommand v t) (h : EndsWithGuard v tr) : EndsWithGuard t tr := by
  simpa only [EndsWithGuard, e.cmd, e.work] using h

theorem endsWithFreshLatch_of_same (e : SameCommand v t) (h : EndsWithFreshLatch v tr) : EndsWithFreshLatch t tr := by
  simpa only [EndsWithFreshLatch, e.cmd, e.work] using h

/-- Before its latch read a command has nothing to show. -/
theorem GuardDue.of_first (hl : v.ph ≠ .fLat) (hw : v.ph ≠ .fWr) : GuardDue v := ⟨fun h => absurd h hl, fun h => absurd h hw⟩

theorem GuardDue.of_same (h : GuardDue v) (e : SameCommand v t) (htr : t.trace = v.trace) : GuardDue t where
  latchRead hp := htr ▸ endsWithGuard_of_same e (h.latchRead (e.ph ▸ hp))
  latchWrite hp := htr ▸ endsWithFreshLatch_of_same e (h.latchWrite (e.ph ▸ hp))

/-- The answered frame of a phase ends the trace. -/
theorem GuardDue.answered (h : GuardDue v) (htx : requestOf (dueFrame v) = some tx) (ha : Answered tx n v t) : GuardBack t where
  tx := by rw [ha.sent, dueFrame_of_same ha.same, htx]
  direction _ := ⟨v.trace, by rw [ha.sent]; exact ha.trace_eq⟩
  latch hp := ⟨v.trace, by rw [ha.sent]; exact ha.trace_eq, endsWithGuard_of_same ha.same (h.latchRead (ha.same.ph ▸ hp))⟩

/-- A read's value is its answer's third byte (R172). -/
theorem lastAnswer_of_readValue {x : Byte} (h : u.readValue = some x) : ∃ rx, lastAnswer u = .ok rx ∧ decRead rx = x := by
  unfold State.readValue at h
  split at h
  next hheld => exact ⟨u.rx, by simp [lastAnswer, hheld], Option.some.inj h⟩
  next => cases h

/-- A SET_OUTPUT that goes on to its latch read or its write has read what the guard and the freshness ask for. -/
theorem GuardBack.due (h : GuardBack u) (hp : Proceeds u w) : GuardDue w := by
  have htx := h.tx
  cases hp with
  | latchRead hph hv =>
    obtain ⟨before, htr⟩ := h.direction hph
    obtain ⟨rx, ha, hrx⟩ := lastAnswer_of_readValue hv
    simp only [dueFrame, hph, requestOf, Option.some.injEq] at htx
    exact ⟨fun _ => ⟨before, _, htr, htx, rx, ha, hrx⟩, nofun⟩
  | latchWrite hph hv =>
    obtain ⟨-, htr, before, e, rfl, he⟩ := h.latch hph
    obtain ⟨rx, ha, hrx⟩ := lastAnswer_of_readValue hv
    simp only [dueFrame, hph, requestOf, Option.some.injEq] at htx
    exact ⟨nofun, fun _ => ⟨before, e, ⟨u.tx, lastAnswer u⟩, htr.trans (by simp), he, htx, rx, ha, hrx⟩⟩
  | verify hph _ => exact ⟨nofun, nofun⟩

theorem GuardBack.of_time (h : GuardBack u) (ht : SameButTime u t) : GuardBack t := by
  obtain ⟨st, l, rfl⟩ := ht
  exact ⟨h.tx, h.direction, h.latch⟩

/-- An answered frame meets `GuardTrace`. -/
theorem GuardBack.guardTrace (h : GuardBack u) (hsub : u.sub = .settle) : GuardTrace u :=
  ⟨fun hp _ _ => h.direction hp, fun _ hx => absurd (hsub.symm.trans hx) (by decide), fun hp _ => h.latch hp,
    fun _ hx => absurd (hsub.symm.trans hx) (by decide)⟩

/-- A frame with the transport meets `GuardTrace`. -/
theorem GuardDue.guardTrace_of_xfer (h : GuardDue t) (hsub : t.sub = .xfer) : GuardTrace t :=
  ⟨fun _ hx => absurd (hsub.symm.trans hx) (by decide), fun hp _ => h.latchRead hp,
    fun _ hx => absurd (hsub.symm.trans hx) (by decide), fun hp _ => h.latchWrite hp⟩

/-- The other way round: a state in the middle of a frame has what `GuardTrace` says of it. -/
theorem GuardTrace.due (h : GuardTrace s) (hsub : s.sub = .xfer) : GuardDue s := by
  obtain ⟨-, hlat, -, hwr⟩ := h
  exact ⟨fun hp => hlat hp hsub, fun hp => hwr hp hsub⟩

theorem GuardTrace.back (h : GuardTrace s) (hs : FrameSentInv s) : GuardBack s := by
  obtain ⟨hdir, -, hlat, -⟩ := h
  exact ⟨hs.tx, fun hp => hdir hp hs.sub (hs.count ▸ framesAt_ne_zero hs.ph), fun hp => hlat hp hs.sub⟩

theorem guardTrace_of_idle (h : t.ph = .idle) : GuardTrace t :=
  ⟨fun hp => absurd (h.symm.trans hp) (by decide), fun hp => absurd (h.symm.trans hp) (by decide),
    fun hp => absurd (h.symm.trans hp) (by decide), fun hp => absurd (h.symm.trans hp) (by decide)⟩

/-- A frame that is due and waits meets `GuardTrace`. -/
theorem GuardDue.waiting (h : GuardDue v) (hv : FrameDueInv v) (htx : requestOf (dueFrame v) = some tx)
    (hw : frame tx v = .waiting t) : GuardTrace t := by
  rcases frame_spec_waiting hw with ⟨hc, -⟩ | ⟨-, hs, -, ht⟩ | ⟨-, hl⟩ | ⟨-, -, ha⟩
  · rw [hv.csN] at hc; cases hc
  · obtain ⟨hn, hsub⟩ := hv.owed hs
    have hfirst : v.ph = .fOne ∨ v.ph = .fDir := first_of_framesAt (by rw [← hv.count, hn]; decide)
    obtain ⟨st, l, rfl⟩ := ht
    refine ⟨fun _ _ h0 => absurd hn h0, fun hp => ?_, fun hp => ?_, fun hp => ?_⟩ <;>
      rcases hfirst with hf | hf <;> exact absurd (hf.symm.trans hp) (by decide)
  · exact (h.of_same hl.same hl.trace).guardTrace_of_xfer hl.sub
  · exact (h.answered htx ha).guardTrace ha.sub

/-- The outline of the guard: what the trace shows at each point of a command. -/
theorem guard_outline :
    Outline (fun v => FrameDueInv v ∧ GuardDue v) (fun u => (FrameSentInv u ∧ u.settled = true) ∧ GuardBack u) GuardTrace where
  returned hv htx hu := ⟨blockInv_outline.returned hv.1 htx hu, hv.2.answered htx (frame_spec hu).2.2⟩
  waiting hv htx hw := hv.2.waiting hv.1 htx hw
  finished _ hf := guardTrace_of_idle hf.idle.1
  proceeds hu hp := ⟨blockInv_outline.proceeds hu.1 hp, hu.2.due hp⟩

/-- The frame due in a command's first phases needs no guard before it. -/
theorem FrameDueInv.guardDue (h : FrameDueInv v) (hn : v.nFrames = 0#3) : GuardDue v := by
  have hfirst : v.ph = .fOne ∨ v.ph = .fDir := first_of_framesAt (by rw [← h.count, hn]; decide)
  refine .of_first (fun hp => ?_) (fun hp => ?_) <;>
    rcases hfirst with hf | hf <;> exact absurd (hf.symm.trans hp) (by decide)

/-- A step of a command in progress keeps `GuardTrace`. -/
theorem GuardTrace.of_stepBusy (h : GuardTrace s) (hs : BlockInv s) (ht : stepBusy s = .next t) : GuardTrace t := by
  rcases stepBusy_cases ht with ⟨hd, tx, htx, hf⟩ | ⟨hph, hsub, hf⟩ | ⟨hph, hd, hsub, hf⟩
  · obtain ⟨hph, hsub, hn⟩ := frameDue_iff.mp hd
    have hv := (hs.settle hph hsub).1 hd
    rcases hf with hu | hw
    · have ha := (frame_spec hu).2.2
      exact ((hv.guardDue hn).answered htx ha).guardTrace ha.sub
    · exact (hv.guardDue hn).waiting hv htx hw
  · have htx := (hs.xfer hph hsub).2.2.symm
    rcases hf with hw | ⟨u, hu, hg⟩
    · rcases resumeTransfer_spec_waiting hw with ⟨l, rfl⟩ | ⟨-, ha⟩
      · exact h
      · exact ((h.due hsub).answered htx ha).guardTrace ha.sub
    · obtain ⟨hset, ha⟩ := resumeTransfer_spec hu
      exact guard_outline.of_goesOn hg ⟨⟨hs.answered hph hsub ha, hset⟩, (h.due hsub).answered htx ha⟩
  · have hsent := (hs.settle hph hsub).2 hd
    have hback := h.back hsent
    rcases hf with hw | ⟨u, hu, hg⟩
    · have ht := (awaitSettle_waiting hw).2
      exact (hback.of_time ht).guardTrace (hsent.of_time ht).sub
    · obtain ⟨hset, ht⟩ := awaitSettle_returned hu
      exact guard_outline.of_goesOn hg ⟨⟨hsent.of_time ht, hset⟩, hback.of_time ht⟩

/-- An accepted command has its first frame due. -/
theorem Accepts.nFrames {i : Instr} (h : Accepts s i v) : v.nFrames = 0#3 := by cases h <;> rfl

end

/-- Settles O40, by what the step is: a command in progress or accepted keeps it along its outline; every other step leaves the
block idle. -/
theorem stepKeepsGuardTrace : Obligations.StepKeepsGuardTrace := by
  intro s t hs hg h
  rcases step_cases h with ⟨draws, rest, -, rfl⟩ | ⟨-, ht⟩ | ⟨hb, w, i, hw, ht⟩ | ⟨-, rfl⟩ | ⟨hb, -, ⟨st, l, rfl⟩, -⟩
  · exact guardTrace_of_idle (hostReset_idle draws _).1
  · exact hg.of_stepBusy hs ht
  · rcases exec_command_cases (s := takeWord s) (isCommand_of_decode hw) hb ht with ⟨a, p, d, -, -, rfl⟩ | ⟨v, ha, hr⟩
    · exact guardTrace_of_idle rfl
    · have hv := ha.due (s := takeWord s) hs hb (encode_of_decodeCommand hw).2
      exact guard_outline.of_runs hr ⟨hv, hv.guardDue ha.nFrames⟩
  · exact guardTrace_of_idle rfl
  · exact guardTrace_of_idle (hs.idle hb).1

end Sys2Proof.Machine
end

section
/-!
PROOFS. SET_OUTPUT sends no write but the guarded, fresh one of its half's latch (R178, R180, R184): in the accepting step and in
every later step of the command.
-/
namespace Sys2Proof.Machine

/-- The event `e` at position `k` of the trace is the latch write of the SET_OUTPUT latched in `c`, with the direction read answered
0x00 and the latch read whose byte it changes right before it. -/
def GuardedAt (c : Latched) (p : Params) (tr : List FrameEvent) (k : Nat) (e : FrameEvent) : Prop :=
  2 ≤ k ∧ ∃ h bit rx1 rx2, pinDecode c.pin = some (h, bit) ∧ rx1.b2 = 0x00#8 ∧
    tr[k - 2]? = some ⟨encRead c.addr (halfRegs p.regMap h).1, .ok rx1⟩ ∧
    tr[k - 1]? = some ⟨encRead c.addr (halfRegs p.regMap h).2, .ok rx2⟩ ∧
    e.tx = encWrite c.addr (halfRegs p.regMap h).2 (applyBit rx2.b2 bit c.d)

/-- From position `n` on, each write of the trace is such a latch write. -/
def WritesGuarded (c : Latched) (p : Params) (n : Nat) (tr : List FrameEvent) : Prop :=
  ∀ k e, n ≤ k → tr[k]? = some e → isWriteRequest e.tx = true → GuardedAt c p tr k e

section
variable {c : Latched} {p : Params} {n : Nat} {tr : List FrameEvent} {e : FrameEvent}

theorem writesGuarded_of_le (h : tr.length ≤ n) : WritesGuarded c p n tr := by
  intro k e hk he
  rw [List.getElem?_eq_none (Nat.le_trans h hk)] at he
  cases he

/-- A frame more at the end of the trace leaves the frames before it where they are. -/
theorem getElem?_concat_of_lt {k : Nat} (h : k < tr.length) : (tr ++ [e])[k]? = tr[k]? := List.getElem?_append_left h

/-- The last frame of a trace. -/
theorem getElem?_concat_eq {k : Nat} {f : FrameEvent} (h : (tr ++ [e])[k]? = some f) (hk : ¬ k < tr.length) :
    k = tr.length ∧ f = e := by
  have hlen : k < (tr ++ [e]).length := (List.getElem?_eq_some_iff.mp h).1
  obtain rfl : k = tr.length := by simp at hlen; omega
  exact ⟨rfl, by simpa using h.symm⟩

/-- A frame more, which is no write or a guarded one. -/
theorem WritesGuarded.concat (h : WritesGuarded c p n tr)
    (he : isWriteRequest e.tx = true → GuardedAt c p (tr ++ [e]) tr.length e) : WritesGuarded c p n (tr ++ [e]) := by
  intro k f hn hf hw
  by_cases hk : k < tr.length
  · rw [getElem?_concat_of_lt hk] at hf
    obtain ⟨h2, hh, bit, rx1, rx2, hp, hz, h3, h4, h5⟩ := h k f hn hf hw
    exact ⟨h2, hh, bit, rx1, rx2, hp, hz, by rwa [getElem?_concat_of_lt (by omega)],
      by rwa [getElem?_concat_of_lt (by omega)], h5⟩
  · obtain ⟨rfl, rfl⟩ := getElem?_concat_eq hf hk
    exact he hw

end

/-- A SET_OUTPUT in progress in `v`, the one latched in `c`, with its working registers as R177 and R181 leave them. -/
structure SetOutputAt (c : Latched) (p : Params) (v : State) : Prop where
  phase : v.ph.ofSetOutput = true
  cmd : v.cmd = c
  params : v.params = p
  half : HalfSelected v
  newByte : NewByteOfLatch v

section
variable {c : Latched} {p : Params} {n : Nat} {m : BitVec 3} {s t u v w : State} {tx : Bytes3}

theorem SetOutputAt.of_same (h : SetOutputAt c p v) (e : SameCommand v t) : SetOutputAt c p t where
  phase := e.ph ▸ h.phase
  cmd := e.cmd.trans h.cmd
  params := e.params.trans h.params
  half := by simpa only [HalfSelected, e.cmd, e.ph, e.work, e.params] using h.half
  newByte := by simpa only [NewByteOfLatch, e.cmd, e.ph, e.work] using h.newByte

theorem SetOutputAt.proceeds (h : SetOutputAt c p u) (hp : Proceeds u w) : SetOutputAt c p w := by
  have hhalf := h.half h.phase
  cases hp with
  | latchRead _ _ => exact ⟨rfl, h.cmd, h.params, fun _ => hhalf, nofun⟩
  | latchWrite _ _ => exact ⟨rfl, h.cmd, h.params, fun _ => hhalf, fun _ => rfl⟩
  | verify hph _ => exact ⟨rfl, h.cmd, h.params, fun _ => hhalf, fun _ => h.newByte (hph ▸ rfl)⟩

/-- Which requests are writes (R51). -/
@[simp] theorem isWriteRequest_encRead (a r : Byte) : isWriteRequest (encRead a r) = false := by
  simp [isWriteRequest, encRead]

@[simp] theorem isWriteRequest_encWrite (a r v : Byte) : isWriteRequest (encWrite a r v) = true := by
  simp [isWriteRequest, encWrite]

/-- Of the frames of a SET_OUTPUT the third alone is a write, of the half's latch. -/
theorem request_of_setOutput (hph : v.ph.ofSetOutput = true) (htx : requestOf (dueFrame v) = some tx) :
    (v.ph = .fWr ∧ tx = encWrite v.cmd.addr v.work.latReg v.work.new) ∨ (v.ph ≠ .fWr ∧ isWriteRequest tx = false) := by
  cases hp : v.ph with
  | idle => rw [hp] at hph; cases hph
  | fOne => rw [hp] at hph; cases hph
  | fWr =>
    simp only [dueFrame, hp, requestOf, Option.some.injEq] at htx
    exact .inl ⟨rfl, htx.symm⟩
  | _ =>
    simp only [dueFrame, hp, requestOf, Option.some.injEq] at htx
    exact .inr ⟨nofun, htx ▸ isWriteRequest_encRead _ _⟩

/-- The answered frame of a SET_OUTPUT is a read, or the guarded write behind its two reads. -/
theorem SetOutputAt.answered (h : SetOutputAt c p v) (hg : GuardDue v) (hw : WritesGuarded c p n v.trace)
    (htx : requestOf (dueFrame v) = some tx) (ha : Answered tx m v t) : WritesGuarded c p n t.trace := by
  rw [ha.trace_eq]
  refine hw.concat fun hwrite => ?_
  rcases request_of_setOutput h.phase htx with ⟨hph, htx⟩ | ⟨-, hread⟩
  · obtain ⟨before, ⟨tx1, a1⟩, ⟨tx2, a2⟩, htr, ⟨h1, rx1, h2, hz⟩, h3, rx2, h4, hprev⟩ := hg.latchWrite hph
    obtain ⟨hpin, hregs⟩ := h.half h.phase
    have hnew := h.newByte (hph ▸ rfl)
    rw [h.cmd] at hpin hnew htx h1 h3
    rw [h.params] at hregs
    simp only at h1 h2 h3 h4
    refine ⟨by simp [htr], v.work.half, v.work.bit, rx1, rx2, hpin, hz, ?_, ?_, ?_⟩ <;> rw [hregs]
    · simp [htr, h1, h2]
    · simp [htr, h3, h4]
    · simp only [htx, hnew, ← hprev]
      rfl
  · rw [hread] at hwrite; cases hwrite

/-- The outline of a SET_OUTPUT's writes. -/
theorem writes_outline (c : Latched) (p : Params) (n : Nat) :
    Outline (fun v => SetOutputAt c p v ∧ GuardDue v ∧ WritesGuarded c p n v.trace)
      (fun u => SetOutputAt c p u ∧ GuardBack u ∧ WritesGuarded c p n u.trace) (fun t => WritesGuarded c p n t.trace) where
  returned hv htx hu := by
    obtain ⟨hat, hg, hw⟩ := hv
    have ha := (frame_spec hu).2.2
    exact ⟨hat.of_same ha.same, hg.answered htx ha, hat.answered hg hw htx ha⟩
  waiting hv htx hwait := by
    obtain ⟨hat, hg, hw⟩ := hv
    rcases frame_answered_or_not (.inr hwait) with ha | ⟨-, htr, -⟩
    · exact hat.answered hg hw htx ha
    · exact htr ▸ hw
  finished hu hf := hf.trace ▸ hu.2.2
  proceeds hu hp := ⟨hu.1.proceeds hp, hu.2.1.due hp, hp.frameCount.2 ▸ hu.2.2⟩

/-- The position of a SET_OUTPUT's frames in a trace that had `n` before it: each phase is one further, and only the third is a
write. -/
def OnlyThirdWrites (n : Nat) (tr : List FrameEvent) : Prop :=
  ∀ k e, n ≤ k → tr[k]? = some e → isWriteRequest e.tx = true → k = n + 2

theorem OnlyThirdWrites.concat {tr : List FrameEvent} {e : FrameEvent} (h : OnlyThirdWrites n tr)
    (he : isWriteRequest e.tx = true → tr.length = n + 2) : OnlyThirdWrites n (tr ++ [e]) := by
  intro k f hn hf hw
  by_cases hk : k < tr.length
  · rw [getElem?_concat_of_lt hk] at hf
    exact h k f hn hf hw
  · obtain ⟨rfl, rfl⟩ := getElem?_concat_eq hf hk
    exact he hw

/-- The answered frame of a SET_OUTPUT stands where its phase says. -/
theorem onlyThirdWrites_of_answered (hph : v.ph.ofSetOutput = true) (hlen : v.trace.length + 1 = n + frameCount v.ph)
    (h : OnlyThirdWrites n v.trace) (htx : requestOf (dueFrame v) = some tx) (ha : Answered tx m v t) :
    t.trace.length = n + frameCount t.ph ∧ OnlyThirdWrites n t.trace := by
  rw [ha.trace_eq, ha.same.ph]
  refine ⟨by simpa using hlen, h.concat fun hw => ?_⟩
  rcases request_of_setOutput hph htx with ⟨hp, -⟩ | ⟨-, hread⟩
  · rw [hp] at hlen
    exact Nat.succ.inj hlen
  · rw [hread] at hw; cases hw

/-- The outline of the positions. -/
theorem positions_outline (n : Nat) :
    Outline (fun v => v.ph.ofSetOutput = true ∧ v.trace.length + 1 = n + frameCount v.ph ∧ OnlyThirdWrites n v.trace)
      (fun u => u.ph.ofSetOutput = true ∧ u.trace.length = n + frameCount u.ph ∧ OnlyThirdWrites n u.trace)
      (fun t => OnlyThirdWrites n t.trace) where
  returned hv htx hu := by
    obtain ⟨hph, hlen, h⟩ := hv
    have ha := (frame_spec hu).2.2
    exact ⟨ha.same.ph ▸ hph, onlyThirdWrites_of_answered hph hlen h htx ha⟩
  waiting hv htx hw := by
    obtain ⟨hph, hlen, h⟩ := hv
    rcases frame_answered_or_not (.inr hw) with ha | ⟨-, htr, -⟩
    · exact (onlyThirdWrites_of_answered hph hlen h htx ha).2
    · exact htr ▸ h
  finished hu hf := hf.trace ▸ hu.2.2
  proceeds hu hp := by
    obtain ⟨-, hlen, h⟩ := hu
    obtain ⟨hcount, htr⟩ := hp.frameCount
    refine ⟨hp.ofSetOutput.2, ?_, htr ▸ h⟩
    rw [htr, hcount, hlen, Nat.add_assoc]

/-- An accepted SET_OUTPUT writes only behind its guard and its fresh read, and only in its third frame. -/
theorem writes_of_exec_setOutput {a q : Byte} {d : Bool} (hb : s.rsp.busy = false) (h : exec (.setOutput a q d) s = .next t) :
    WritesGuarded (latchSetOutput a q d s).cmd s.params s.trace.length t.trace ∧ OnlyThirdWrites s.trace.length t.trace := by
  have hthird : OnlyThirdWrites s.trace.length s.trace := fun k e hk he => by
    rw [List.getElem?_eq_none hk] at he; cases he
  rcases exec_command_cases rfl hb h with ⟨a, p, d, -, -, rfl⟩ | ⟨v, ha, hr⟩
  · exact ⟨writesGuarded_of_le (Nat.le_refl _), hthird⟩
  · cases ha with
    | setOutput a d hp =>
      refine ⟨(writes_outline _ _ _).of_runs hr ⟨⟨rfl, rfl, rfl, fun _ => ⟨hp, rfl⟩, nofun⟩, .of_first nofun nofun, ?_⟩,
        (positions_outline _).of_runs hr ⟨rfl, rfl, hthird⟩⟩
      exact writesGuarded_of_le (Nat.le_refl _)

/-- A step of a SET_OUTPUT in progress writes only behind its guard and its fresh read. -/
theorem writes_of_stepBusy (hs : BlockInv s) (hg : GuardTrace s) (hb : s.rsp.busy = true) (hop : s.cmd.op = 2#2)
    (h : stepBusy s = .next t) : WritesGuarded s.cmd s.params s.trace.length t.trace := by
  have hph := hs.ph_ne_idle hb
  have hcmd := ((blockInv_iff s).mp hs).1
  have hset : s.ph.ofSetOutput = true := by
    cases hp : s.ph with
    | idle => exact absurd hp hph
    | fOne => rcases hcmd.op.1 hp with h0 | h0 <;> rw [hop] at h0 <;> exact absurd h0 (by decide)
    | _ => rfl
  have hat : SetOutputAt s.cmd s.params s := ⟨hset, rfl, rfl, hcmd.half, hcmd.newByte⟩
  have hnone : WritesGuarded s.cmd s.params s.trace.length s.trace := writesGuarded_of_le (Nat.le_refl _)
  rcases stepBusy_cases h with ⟨hd, tx, htx, hf⟩ | ⟨-, hsub, hf⟩ | ⟨-, hd, hsub, hf⟩
  · obtain ⟨-, hsub, hn⟩ := frameDue_iff.mp hd
    rcases frame_answered_or_not hf with ha | ⟨-, htr, -⟩
    · exact hat.answered (((hs.settle hph hsub).1 hd).guardDue hn) hnone htx ha
    · exact htr ▸ hnone
  · have htx := (hs.xfer hph hsub).2.2.symm
    have hdue := hg.due hsub
    rcases hf with hw | ⟨u, hu, hgo⟩
    · rcases resumeTransfer_answered_or_not (.inr hw) with ha | ⟨-, htr, -⟩
      · exact hat.answered hdue hnone htx ha
      · exact htr ▸ hnone
    · have ha := (resumeTransfer_spec hu).2
      exact (writes_outline _ _ _).of_goesOn hgo
        ⟨hat.of_same ha.same, hdue.answered htx ha, hat.answered hdue hnone htx ha⟩
  · have hback := hg.back ((hs.settle hph hsub).2 hd)
    rcases hf with hw | ⟨u, hu, hgo⟩
    · obtain ⟨st, l, rfl⟩ := (awaitSettle_waiting hw).2
      exact hnone
    · have ht := (awaitSettle_returned hu).2
      refine (writes_outline _ _ _).of_goesOn hgo ⟨hat.of_same ht.sameCommand, hback.of_time ht, ?_⟩
      obtain ⟨st, l, rfl⟩ := ht
      exact hnone

end

/-- Settles O31: by the outline of the command's writes, and in the accepting step by that of their positions. -/
theorem setOutputNeverWritesUnguarded : Obligations.SetOutputNeverWritesUnguarded := by
  refine ⟨fun s t a p d h => ?_, fun s t hs hg hb hop h => ?_⟩
  · cases hb : s.rsp.busy with
    | true =>
      simp only [exec, execSetOutput, hb] at h
      cases h
      exact ⟨[], by simp, by simp, nofun⟩
    | false =>
      obtain ⟨events, htr, hlen, -⟩ := emits_of_command rfl hb h
      obtain ⟨hguard, hthird⟩ := writes_of_exec_setOutput hb h
      have hat : ∀ j, t.trace[s.trace.length + j]? = events[j]? := fun j => by
        rw [htr, List.getElem?_append_right (Nat.le_add_right _ _), Nat.add_sub_cancel_left]
      refine ⟨events, htr, hlen, fun k e he hw => ?_⟩
      rw [← hat] at he
      have hk := hthird _ e (Nat.le_add_right _ _) he hw
      obtain rfl : k = 2 := Nat.add_left_cancel hk
      obtain ⟨-, h, bit, rx1, rx2, hpin, hz, h0, h1, htx⟩ := hguard _ e (Nat.le_add_right _ _) he hw
      exact ⟨rfl, h, bit, rx1, rx2, hpin, hz, hat 0 ▸ h0, hat 1 ▸ h1, htx⟩
  · obtain ⟨events, htr, hlen, -⟩ := (blockEmitsOnlyItsTwoRequests s t hs h).1
    refine ⟨events, htr, hlen, ?_⟩
    rcases step_cases h with ⟨draws, rest, -, rfl⟩ | ⟨-, ht⟩ | ⟨hf, -⟩ | ⟨hf, -⟩ | ⟨hf, -⟩
    · have hkeep : (hostReset draws (withInputs rest s)).trace = s.trace := (hostReset_keeps draws (withInputs rest s)).2.2.2.1
      rw [hkeep]
      exact writesGuarded_of_le (c := s.cmd) (p := s.params) (Nat.le_refl _)
    · exact writes_of_stepBusy hs hg hb hop ht
    all_goals exact absurd (hb.symm.trans hf) (by decide)

end Sys2Proof.Machine
end

section
/-!
PROOFS. The statements of 41_codec.md and 42_chip_driver.md on one step: which instruction it runs (R170, R99), the request frames
as instructions (R156), and that no frame starts while settle time is owed (R26, R157); and the layout of RSP (R27).
-/
namespace Sys2Proof.Machine

/-- A flag of RSP as a word is that bit and no other. -/
@[simp] theorem getElem_bitWord (b : Bool) (i : Nat) (h : i < 32) : (bitWord b)[i] = (decide (i = 0) && b) := by
  cases b <;> simp [bitWord]

/-- Settles O11, bit by bit of each field. -/
theorem rspWordLayout : Obligations.RspWordLayout := by
  intro r
  refine ⟨?_, ?_, ?_, ?_, ?_, ?_, ?_, ?_, ?_⟩
  · simp [Rsp.word]
  · simp [Rsp.word]
  · simp [Rsp.word]
  all_goals
    apply BitVec.eq_of_getLsbD_eq
    intro i hi
    interval_cases i <;> simp [Rsp.word]

/-- Settles O12: the port gives up its first word, and the step is that of the instruction it decodes to. -/
theorem stepRunsThePortsCommand : Obligations.StepRunsThePortsCommand := by
  intro s w ws i hb hn hp hi
  have hinstr : portInstr w = some i := by rw [portInstr, hi]; rfl
  have htake : takeWord s = { s with port := ws } := by rw [takeWord, hp]; rfl
  simp only [step_of_idle hb hn, stepIdle, hp, hinstr, htake]

/-- A busy block with no reset next makes a move of its command. -/
theorem step_of_busy {s : State} (hb : s.rsp.busy = true) (hn : noResetNext s.inputs = true) : step s = stepBusy s := by
  unfold step stepMachine
  split
  next h => rw [h] at hn; cases hn
  next => rfl
  next h _ => rw [hb] at h; cases h

/-- Settles O13: a busy block's step asks first whether a frame is due. -/
theorem stepRunsTheDueFrame : Obligations.StepRunsTheDueFrame := by
  intro s hb hn hd
  rw [step_of_busy hb hn, stepBusy, hd]

/-- With the resets at the head dropped, none is next. -/
theorem noResetNext_dropWhile (l : List Input) : noResetNext (l.dropWhile isReset) = true := by
  induction l with
  | nil => rfl
  | cons i rest ih =>
    cases hi : isReset i with
    | true => rw [List.dropWhile_cons_of_pos hi]; exact ih
    | false => rw [List.dropWhile_cons_of_neg (by simp [hi])]; simp [noResetNext, hi]

/-- The frame that `loadFrame` makes due is the one the pattern decodes to. -/
theorem dueFrame_loadFrame {f : FrameWord} {i : Instr} (s : State) (h : decodeFrame f = .ok i) :
    dueFrame (loadFrame f s) = i := by
  obtain ⟨b, rfl⟩ : ∃ b : Bytes3, f = b.word := ⟨f.bytes, (word_bytes f).symm⟩
  have hbit : b.word.getLsbD 16 = b.b0.getLsbD 0 := by simp [Bytes3.word]
  rw [decodeFrame_word] at h
  simp only [dueFrame, loadFrame, bytes_word, hbit]
  cases h0 : b.b0.getLsbD 0 with
  | false => rw [if_pos h0] at h; cases h; rfl
  | true =>
    rw [if_neg (by simp [h0])] at h
    split at h
    next => cases h; rfl
    next => cases h

/-- A pattern that the table decodes does so in its format. -/
theorem decodeTableWord_cases {nbits w : Nat} {i : Instr} (h : decodeTableWord nbits w = some i) :
    (nbits = 32 ∧ decodeCommand (BitVec.ofNat 32 w) = .ok i) ∨ (nbits = 24 ∧ decodeFrame (BitVec.ofNat 24 w) = .ok i) := by
  have hok : ∀ {x : Except DecodeError Instr}, x.toOption = some i → x = .ok i := by
    rintro (e | j) hx <;> cases hx
    rfl
  unfold decodeTableWord at h
  split at h
  next hb => exact .inl ⟨hb, hok h⟩
  next =>
    split at h
    next hb => exact .inr ⟨hb, hok h⟩
    next => cases h

/-- Settles O14, by the format: a command word is the port's next, a frame is the one due. -/
theorem placedInstructionRuns : Obligations.PlacedInstructionRuns := by
  intro s nbits w i h
  rcases decodeTableWord_cases h with ⟨rfl, hi⟩ | ⟨rfl, hi⟩
  · exact stepRunsThePortsCommand (offerWord (BitVec.ofNat 32 w) s) _ s.port i rfl (noResetNext_dropWhile _) rfl hi
  · have hstep := stepRunsTheDueFrame (loadFrame (BitVec.ofNat 24 w) s) rfl (noResetNext_dropWhile _) rfl
    rwa [dueFrame_loadFrame s hi] at hstep

/-- Settles O16, command by command. -/
theorem busyBlockIgnoresCommands : Obligations.BusyBlockIgnoresCommands := by
  intro s i hb hi
  cases i with
  | regWrite a r v => simp only [exec, execRegWrite, hb]
  | regRead a r => simp only [exec, execRegRead, hb]
  | setOutput a p d => simp only [exec, execSetOutput, hb]
  | writeFrame a r v => cases hi
  | readFrame a r => cases hi

/-! ### The request frames as instructions -/

section
variable (s : State) (a r v : Byte)

theorem exec_writeFrame : exec (.writeFrame a r v) s = (frame (encWrite a r v) s).done .next := rfl

theorem exec_readFrame : exec (.readFrame a r) s = (frame (encRead a r) s).done .next := rfl

end

/-- The frame that is answered and settles is the one the statements call sent (R156). -/
theorem frameSent_of_answer (s : State) (tx : Bytes3) (a : Answer) (mem : Memory) (n : Nat) (rest : List Input) :
    FrameSent s (withTimer (.since n) (answered a mem (withInputs rest (launch tx s)))) tx a mem n rest := by
  cases a <;> rfl

/-- Settles O18: the frame is answered by the next input, and its settle time passes. -/
theorem writeFrameCompletes : Obligations.WriteFrameCompletes := by
  intro s a r v i ans mem n rest hc hs hn hin hr
  rw [exec_writeFrame, frame_of_reply hc hs hn hin hr]
  exact ⟨_, rfl, frameSent_of_answer s _ ans mem n rest⟩

/-- Settles O19: the frame is answered by the next input, and its settle time passes. -/
theorem readFrameCompletes : Obligations.ReadFrameCompletes := by
  intro s a r i ans mem n rest hc hs hn hin hr
  rw [exec_readFrame, frame_of_reply hc hs hn hin hr]
  exact ⟨_, rfl, frameSent_of_answer s _ ans mem n rest⟩

/-- Settles O20: with no input the frame stays launched. -/
theorem unansweredFrameWaitsInXfer : Obligations.UnansweredFrameWaitsInXfer := by
  intro s a r v hc hs hin
  rw [exec_writeFrame, exec_readFrame, frame_of_silence hc hs hin, frame_of_silence hc hs hin]
  exact ⟨rfl, rfl⟩

/-- While a frame is on the bus no other begins (R5, R57). -/
theorem frame_of_csLow {s : State} (tx : Bytes3) (hc : s.csN = false) : frame tx s = .waiting s := by
  simp only [frame, hc]

/-- Settles O22: either request meets a frame on the bus. -/
theorem noFrameBeginsDuringAnother : Obligations.NoFrameBeginsDuringAnother := by
  intro s a r v hc
  rw [exec_writeFrame, exec_readFrame, frame_of_csLow _ hc, frame_of_csLow _ hc]
  exact ⟨rfl, rfl⟩

/-! ### No frame starts before T_SETTLE has passed -/

/-- No reset is to come, and with all the time to come ST, now at `u`, stays below T_SETTLE. -/
structure Owing (s : State) (u : Nat) : Prop where
  st : s.st = .since u
  noReset : ∀ i ∈ s.inputs, isReset i = false
  short : u + timeIn s.inputs < s.params.tSettle

/-- `s` with its inputs used up, the time in them having passed. -/
def inputsPassed (u : Nat) (s : State) : State := { s with st := .since (u + timeIn s.inputs), inputs := [] }

/-- A settle time that has not passed is owed. -/
theorem settled_of_since {s : State} {u : Nat} (hst : s.st = .since u) (hu : u < s.params.tSettle) : s.settled = false := by
  simp only [State.settled, hst]
  rw [Bool.eq_false_iff, Ne, Nat.ble_eq]
  omega

/-- The settle wait that runs out of inputs. -/
theorem awaitSettleOn_of_owing {l : List Input} {s : State} {u : Nat} (hst : s.st = .since u)
    (hl : ∀ i ∈ l, isReset i = false) (hu : u + timeIn l < s.params.tSettle) :
    awaitSettleOn l s = .waiting (withTimer (.since (u + timeIn l)) (withInputs [] s)) := by
  induction l generalizing s u with
  | nil =>
    have hs := settled_of_since hst hu
    have heq : withTimer (.since u) (withInputs [] s) = withInputs [] s := by rw [← hst]; rfl
    simp only [awaitSettleOn, hs, timeIn, Nat.add_zero, heq]
  | cons i rest ih =>
    have hs := settled_of_since hst (Nat.lt_of_le_of_lt (Nat.le_add_right _ _) hu)
    obtain ⟨hi, hrest⟩ := List.forall_mem_cons.mp hl
    cases i with
    | reset draws => cases hi
    | elapse n =>
      have hst' : (passTime n s).st = .since (u + n) := by rw [passTime_st, hst, laterTimer_since]
      have htime : u + timeIn (.elapse n :: rest) = u + n + timeIn rest := (Nat.add_assoc _ _ _).symm
      rw [htime] at hu ⊢
      simp only [awaitSettleOn, hs, ih hst' hrest hu]
      rfl
    | _ =>
      simp only [awaitSettleOn, hs]
      exact ih hst hrest hu

section
variable {s : State} {u : Nat}

theorem awaitSettle_of_owing (h : Owing s u) : awaitSettle s = .waiting (inputsPassed u s) :=
  awaitSettleOn_of_owing h.st h.noReset h.short

/-- A frame that meets owed settle time waits for it (R157). -/
theorem frame_of_owing (h : Owing s u) (hc : s.csN = true) (tx : Bytes3) : frame tx s = .waiting (inputsPassed u s) := by
  simp only [frame, hc, awaitSettle_of_owing h, FrameRun.andThen_waiting]

/-- Owed settle time has no reset next. -/
theorem Owing.noResetNext (h : Owing s u) : Machine.noResetNext s.inputs = true := by
  cases hin : s.inputs with
  | nil => rfl
  | cons i rest => simp [Machine.noResetNext, h.noReset i (by simp [hin])]

/-- A SET_OUTPUT of a pin that there is, offered to a block with BUSY = 0, selects the half and reads its directions (R177, R178). -/
theorem exec_setOutput_of_valid {a p : Byte} {d : Bool} {x : Half × BitVec 3} (hb : s.rsp.busy = false)
    (hp : pinDecode p = some x) :
    exec (.setOutput a p d) s =
      (frame (encRead a (halfRegs s.params.regMap x.1).1) (selectHalf x.1 x.2 (latchSetOutput a p d s))).done afterDirection := by
  simp only [exec, execSetOutput, hb, hp, readReg]

/-- A command that waits for settle time goes on with that wait. -/
theorem continueCommand_of_settle (hph : s.ph ≠ .idle) (hsub : s.sub = .settle) :
    continueCommand s = (awaitSettle s).done afterFrame := by
  unfold continueCommand
  split
  next h => exact absurd h hph
  next h _ => rw [hsub] at h; cases h
  next => rfl

/-- A frame that a command sends first, while settle time is owed, waits in `t` with CS_N, TX and the trace as they were. -/
theorem done_of_owing {v : State} (h : Owing v u) (hc : v.csN = true) (tx : Bytes3)
    (k : State → Host.Outcome State Fault Refusal) :
    ∃ t, (frame tx v).done k = .next t ∧ t.csN = true ∧ t.tx = v.tx ∧ t.trace = v.trace :=
  ⟨inputsPassed u v, by rw [frame_of_owing h hc, FrameRun.done_waiting], hc, rfl, rfl⟩

/-- A command accepted while settle time is owed waits before its first frame. -/
theorem command_of_owing {c : Instr} (h : Owing s u) (hcmd : isCommand c = true) (hc : s.csN = true) :
    ∃ t, exec c s = .next t ∧ t.csN = true ∧ t.tx = s.tx ∧ t.trace = s.trace := by
  obtain ⟨hst, hr, hu⟩ := h
  cases hb : s.rsp.busy with
  | true => exact ⟨s, busyBlockIgnoresCommands s c hb hcmd, hc, rfl, rfl⟩
  | false =>
    cases c with
    | regWrite a r v =>
      rw [exec_regWrite_of_idle a r v hb]
      exact done_of_owing (v := latchRegWrite a r v s) ⟨hst, hr, hu⟩ hc _ _
    | regRead a r =>
      rw [exec_regRead_of_idle a r hb]
      exact done_of_owing (v := latchRegRead a r s) ⟨hst, hr, hu⟩ hc _ _
    | setOutput a p d =>
      cases hp : pinDecode p with
      | none => exact ⟨_, exec_setOutput_of_invalid hb hp, hc, rfl, rfl⟩
      | some x =>
        rw [exec_setOutput_of_valid hb hp]
        exact done_of_owing (v := selectHalf x.1 x.2 (latchSetOutput a p d s)) ⟨hst, hr, hu⟩ hc _ _
    | writeFrame a r v => cases hcmd
    | readFrame a r => cases hcmd

/-- A step of a command between two of its frames, or before its first, only lets the time pass. -/
theorem step_of_owing (h : Owing s u) (hs : BlockInv s) (hb : s.rsp.busy = true) (hsub : s.sub = .settle) :
    step s = .next (inputsPassed u s) := by
  have hph := hs.ph_ne_idle hb
  rw [step_of_busy hb h.noResetNext]
  cases hd : s.frameDue with
  | true =>
    obtain ⟨tx, -, he⟩ := exec_dueFrame s
    rw [stepBusy, hd]
    exact he.trans (by rw [frame_of_owing h ((hs.settle hph hsub).1 hd).csN, FrameRun.done_waiting])
  | false =>
    have he : stepBusy s = continueCommand s := by rw [stepBusy, hd]
    rw [he, continueCommand_of_settle hph hsub, awaitSettle_of_owing h, FrameRun.done_waiting]

end

/-- Settles O21: each clause is a settle wait that runs out of inputs. -/
theorem noFrameStartsBeforeSettle : Obligations.NoFrameStartsBeforeSettle := by
  refine ⟨fun s a r v u hc hst hr hu => ?_, fun s c u hcmd hc hst hr hu => command_of_owing ⟨hst, hr, hu⟩ hcmd hc,
    fun s u hs hb hsub hst hr hu => step_of_owing ⟨hst, hr, hu⟩ hs hb hsub⟩
  rw [exec_writeFrame, exec_readFrame, frame_of_owing ⟨hst, hr, hu⟩ hc, frame_of_owing ⟨hst, hr, hu⟩ hc]
  exact ⟨rfl, rfl⟩

end Sys2Proof.Machine
end

section
/-!
PROOFS. With an oracle transport no step is refused (R66): no input that is left to any part of a command is a reference device's
answer.
-/
namespace Sys2Proof.Machine

/-- No reference device answers among the inputs still to come. -/
def OracleOnly (s : State) : Prop := ∀ i ∈ s.inputs, isDeviceInput i = false

/-- A frame that no reference device refuses, and that leaves no device's answer to what follows it. -/
def FrameRun.OracleOnly : FrameRun → Prop
  | .returned t => Machine.OracleOnly t
  | .waiting _ => True
  | .outside => False

section
variable {s : State} {f : FrameRun} {e : Refusal}

theorem FrameRun.OracleOnly.andThen {k : State → FrameRun} (h : f.OracleOnly)
    (hk : ∀ t, Machine.OracleOnly t → (k t).OracleOnly) : (f.andThen k).OracleOnly := by
  cases f with
  | returned t => exact hk t h
  | waiting t => exact trivial
  | outside => exact h.elim

theorem FrameRun.OracleOnly.done_ne_refused {k : State → Host.Outcome State Fault Refusal} (h : f.OracleOnly)
    (hk : ∀ t, Machine.OracleOnly t → k t ≠ .refused e) : f.done k ≠ .refused e := by
  cases f with
  | returned t => exact hk t h
  | waiting t => exact nofun
  | outside => exact h.elim

theorem oracleOnly_awaitSettleOn {l : List Input} (h : ∀ i ∈ l, isDeviceInput i = false) (s : State) :
    (awaitSettleOn l s).OracleOnly := by
  induction l generalizing s with
  | nil =>
    cases hs : s.settled with
    | true => simp only [awaitSettleOn, hs]; exact h
    | false => simp only [awaitSettleOn, hs]; trivial
  | cons i rest ih =>
    have hrest := (List.forall_mem_cons.mp h).2
    cases hs : s.settled with
    | true => simp only [awaitSettleOn, hs]; exact h
    | false =>
      cases i with
      | reset draws => simp only [awaitSettleOn, hs]; trivial
      | _ => simp only [awaitSettleOn, hs]; exact ih hrest _

/-- An input that is no device's is never refused. -/
theorem respond_ne_outside {i : Input} (h : isDeviceInput i = false) (p : Params) (present : BitVec 8) (m : Memory) (tx : Bytes3) :
    respond p present m tx i ≠ .outside := by
  cases i with
  | device f => cases h
  | deviceErr f => cases h
  | _ => exact nofun

theorem oracleOnly_awaitAnswerOn {l : List Input} (h : ∀ i ∈ l, isDeviceInput i = false) (s : State) :
    (awaitAnswerOn l s).OracleOnly := by
  induction l generalizing s with
  | nil => trivial
  | cons i rest ih =>
    obtain ⟨hi, hrest⟩ := List.forall_mem_cons.mp h
    unfold awaitAnswerOn
    split
    next => exact hrest
    next hr => exact respond_ne_outside hi _ _ _ _ hr
    next => trivial
    next => exact ih hrest s

theorem oracleOnly_awaitSettle (h : OracleOnly s) : (awaitSettle s).OracleOnly := oracleOnly_awaitSettleOn h s

theorem oracleOnly_resumeTransfer (h : OracleOnly s) : (resumeTransfer s).OracleOnly :=
  (oracleOnly_awaitAnswerOn h s).andThen fun _ => oracleOnly_awaitSettle

theorem oracleOnly_frame (h : OracleOnly s) (tx : Bytes3) : (frame tx s).OracleOnly := by
  unfold frame
  split
  · exact (oracleOnly_awaitSettle h).andThen fun t ht => oracleOnly_resumeTransfer (s := launch tx t) ht
  · trivial

theorem afterRegWrite_ne_refused (s : State) : afterRegWrite s ≠ .refused e := by rw [afterRegWrite_eq]; exact nofun

theorem afterRegRead_ne_refused (s : State) : afterRegRead s ≠ .refused e := by rw [afterRegRead_eq]; exact nofun

theorem afterVerify_ne_refused (s : State) : afterVerify s ≠ .refused e := by
  unfold afterVerify
  split <;> exact nofun

theorem afterLatchWrite_ne_refused (h : OracleOnly s) : afterLatchWrite s ≠ .refused e := by
  unfold afterLatchWrite
  split
  · exact nofun
  · exact (oracleOnly_frame (s := withPhase .fVrb s) h _).done_ne_refused fun t _ => afterVerify_ne_refused t
  · exact nofun

theorem afterLatchRead_ne_refused (h : OracleOnly s) : afterLatchRead s ≠ .refused e := by
  unfold afterLatchRead
  split
  next prev _ => exact (oracleOnly_frame (s := newByte prev s) h _).done_ne_refused fun _ => afterLatchWrite_ne_refused
  next => exact nofun

theorem afterDirection_ne_refused (h : OracleOnly s) : afterDirection s ≠ .refused e := by
  unfold afterDirection
  split
  next v _ =>
    split
    · exact (oracleOnly_frame (s := withPhase .fLat (directionValue v s)) h _).done_ne_refused fun _ => afterLatchRead_ne_refused
    · exact nofun
  next => exact nofun

theorem afterFrame_ne_refused (h : OracleOnly s) : afterFrame s ≠ .refused e := by
  unfold afterFrame
  split
  · exact nofun
  · split
    · exact afterRegWrite_ne_refused s
    · exact afterRegRead_ne_refused s
    · exact nofun
    · exact nofun
  · exact afterDirection_ne_refused h
  · exact afterLatchRead_ne_refused h
  · exact afterLatchWrite_ne_refused h
  · exact afterVerify_ne_refused s

/-- No instruction is refused. -/
theorem exec_ne_refused (i : Instr) (h : OracleOnly s) : exec i s ≠ .refused e := by
  cases i with
  | regWrite a r v =>
    cases hb : s.rsp.busy with
    | true => rw [busyBlockIgnoresCommands s _ hb rfl]; exact nofun
    | false =>
      rw [exec_regWrite_of_idle a r v hb]
      exact (oracleOnly_frame (s := latchRegWrite a r v s) h _).done_ne_refused fun t _ => afterRegWrite_ne_refused t
  | regRead a r =>
    cases hb : s.rsp.busy with
    | true => rw [busyBlockIgnoresCommands s _ hb rfl]; exact nofun
    | false =>
      rw [exec_regRead_of_idle a r hb]
      exact (oracleOnly_frame (s := latchRegRead a r s) h _).done_ne_refused fun t _ => afterRegRead_ne_refused t
  | setOutput a p d =>
    cases hb : s.rsp.busy with
    | true => rw [busyBlockIgnoresCommands s _ hb rfl]; exact nofun
    | false =>
      cases hp : pinDecode p with
      | none => rw [exec_setOutput_of_invalid hb hp]; exact nofun
      | some x =>
        rw [exec_setOutput_of_valid hb hp]
        exact (oracleOnly_frame (s := selectHalf x.1 x.2 (latchSetOutput a p d s)) h _).done_ne_refused
          fun _ => afterDirection_ne_refused
  | writeFrame a r v => rw [exec_writeFrame]; exact (oracleOnly_frame h _).done_ne_refused fun _ _ => nofun
  | readFrame a r => rw [exec_readFrame]; exact (oracleOnly_frame h _).done_ne_refused fun _ _ => nofun

end

/-- Settles O43: the only refusal is a reference device's, and no such input reaches a frame. -/
theorem oracleRunsAreNeverRefused : Obligations.OracleRunsAreNeverRefused := by
  intro s e h
  unfold step stepMachine
  split
  next => exact nofun
  next =>
    unfold stepBusy
    split
    · exact exec_ne_refused _ h
    · unfold continueCommand
      split
      · exact nofun
      · exact (oracleOnly_resumeTransfer h).done_ne_refused fun _ => afterFrame_ne_refused
      · exact (oracleOnly_awaitSettle h).done_ne_refused fun _ => afterFrame_ne_refused
  next =>
    unfold stepIdle
    split
    · split
      · exact exec_ne_refused (s := takeWord s) _ h
      · exact nofun
    · split <;> exact nofun

end Sys2Proof.Machine
end

section
/-!
PROOFS. The statements of 20_memory.md section 6 on the reference devices: their answers (R72, R73, R75, R77), where their registers
are kept (R70, R122, R74), and the canonical form of their memory.
-/
namespace Sys2Proof.Machine

/-! ### Memory in canonical form -/

/-- An address below every entry reads as unlisted. -/
theorem Memory.read_of_lt {m : Memory} {a : Nat} (h : ∀ c ∈ m, a < c.1) : Memory.read m a = Memory.blank a := by
  induction m with
  | nil => rfl
  | cons c rest ih =>
    obtain ⟨k, v⟩ := c
    obtain ⟨hk, hrest⟩ := List.forall_mem_cons.mp h
    rw [Memory.read, if_neg (Nat.ne_of_lt hk), ih hrest]

/-- The canonical form of a memory with an entry. -/
theorem Memory.wf_cons {k : Nat} {v : Byte} {rest : Memory} :
    Memory.wf ((k, v) :: rest) = true ↔ v ≠ Memory.blank k ∧ (∀ c ∈ rest, k < c.1) ∧ Memory.wf rest = true := by
  simp [Memory.wf, and_assoc]

/-- An entry reads as its byte, which no unlisted address does. -/
theorem Memory.read_head {k : Nat} {v : Byte} {rest : Memory} : Memory.read ((k, v) :: rest) k = v := if_pos rfl

/-- The least entries of two canonical memories that read the same are at one address: below it each reads as unlisted. -/
theorem Memory.not_lt_of_read_eq {k k' : Nat} {v v' : Byte} {rest rest' : Memory} (h : Memory.wf ((k, v) :: rest) = true)
    (h' : Memory.wf ((k', v') :: rest') = true)
    (he : ∀ b, Memory.read ((k, v) :: rest) b = Memory.read ((k', v') :: rest') b) : ¬ k < k' := by
  intro hlt
  obtain ⟨hv, -, -⟩ := Memory.wf_cons.mp h
  obtain ⟨-, hrest', -⟩ := Memory.wf_cons.mp h'
  have hblank : Memory.read ((k', v') :: rest') k = Memory.blank k :=
    Memory.read_of_lt (List.forall_mem_cons.mpr ⟨hlt, fun c hc => Nat.lt_trans hlt (hrest' c hc)⟩)
  exact hv (by rw [← hblank, ← he, Memory.read_head])

/-- Settles O55, by induction on the two lists of entries. -/
theorem canonicalMemoriesAreEqual : Obligations.CanonicalMemoriesAreEqual := by
  intro m
  induction m with
  | nil =>
    intro m' _ h' he
    match m' with
    | [] => rfl
    | (k', v') :: rest' =>
      refine absurd ?_ (Memory.wf_cons.mp h').1
      rw [← Memory.read_head (v := v') (rest := rest'), ← he]
      rfl
  | cons c rest ih =>
    intro m' h h' he
    obtain ⟨k, v⟩ := c
    match m' with
    | [] =>
      refine absurd ?_ (Memory.wf_cons.mp h).1
      rw [← Memory.read_head (v := v) (rest := rest), he]
      rfl
    | (k', v') :: rest' =>
      have hk : k = k' := Nat.le_antisymm (Nat.not_lt.mp (Memory.not_lt_of_read_eq h' h fun b => (he b).symm))
        (Nat.not_lt.mp (Memory.not_lt_of_read_eq h h' he))
      subst hk
      have hv : v = v' := by simpa [Memory.read] using he k
      subst hv
      obtain ⟨-, hlt, hrest⟩ := Memory.wf_cons.mp h
      obtain ⟨-, hlt', hrest'⟩ := Memory.wf_cons.mp h'
      rw [ih rest' hrest hrest' fun b => ?_]
      by_cases hb : b = k
      · rw [hb, Memory.read_of_lt hlt, Memory.read_of_lt hlt']
      · simpa [Memory.read, hb] using he b

/-! ### Where registers are kept -/

/-- Settles O36: the reset state's own values, and a memory that lists no register. -/
theorem resetValues : Obligations.ResetValues := ⟨rfl, rfl, rfl, word_reset, rfl, rfl, fun _ => rfl⟩

/-- Settles O49, by the table. -/
theorem registerMapIsTheTable : Obligations.RegisterMapIsTheTable := ⟨rfl, rfl, rfl, rfl, rfl⟩

/-- The register that an offset names within a device: IOCON's second offset names its first (R122). -/
theorem deviceAddr_eq_iff (hw hw' : Nat) (r r' : Byte) :
    deviceAddr hw r = deviceAddr hw' r' ↔
      hw = hw' ∧ (if r = 0x0B#8 then 0x0A#8 else r) = (if r' = 0x0B#8 then 0x0A#8 else r') := by
  refine ⟨fun h => ?_, ?_⟩
  · have hhw := deviceAddr_hw h
    subst hhw
    exact ⟨rfl, BitVec.eq_of_toNat_eq (Nat.add_left_cancel h)⟩
  · rintro ⟨rfl, hr⟩
    rw [deviceAddr, hr, deviceAddr]

/-- Two offsets name one register of a device exactly when they are the same or both IOCON's (R122). -/
theorem firstOffset_eq_iff (r r' : Byte) :
    (if r = 0x0B#8 then 0x0A#8 else r) = (if r' = 0x0B#8 then 0x0A#8 else r') ↔
      r = r' ∨ ((r = 0x0A#8 ∨ r = 0x0B#8) ∧ (r' = 0x0A#8 ∨ r' = 0x0B#8)) := by
  by_cases h : r = 0x0B#8
  · by_cases h' : r' = 0x0B#8
    · simp [h, h']
    · simp [h, h', eq_comm]
  · by_cases h' : r' = 0x0B#8
    · simp [h, h']
    · simp only [h, h', if_false, or_false]
      exact ⟨.inl, fun hr => hr.elim id fun ⟨hr, hr'⟩ => hr.trans hr'.symm⟩

/-- Both offsets of IOCON name one register. -/
theorem deviceAddr_of_isIocon {r : Byte} (hw : Nat) (h : isIocon r = true) : deviceAddr hw r = deviceAddr hw 0x0A#8 := by
  rcases (isIocon_iff r).mp h with rfl | rfl <;> rfl

section
variable {m : Memory} {hw : Nat} {r v : Byte}

/-- A write to one device with BANK = 0 stores the byte at the offset. -/
theorem writeDevices_one (hbank : (deviceIocon m hw).getLsbD 7 = false) (hr : r ≤ 0x15#8) :
    writeDevices m [hw] r v = Memory.write m (deviceAddr hw r) v := by
  rw [writeDevices, List.foldl_cons, List.foldl_nil, storeAddressed, addressed_of_bank0 r hbank, if_pos hr]

theorem deviceRead_of_isIocon (h : isIocon r = true) : deviceRead m hw r = Memory.read m (deviceAddr hw r) &&& 0xFE#8 :=
  if_pos h

theorem deviceRead_of_not_isIocon (h : isIocon r = false) : deviceRead m hw r = Memory.read m (deviceAddr hw r) :=
  if_neg (by simp [h])

end

/-- A stored offset is one of a device's registers (R70, R72). -/
theorem le_of_storedOffset {r : Byte} (h : storedOffset r = true) : r ≤ 0x15#8 := by
  revert r; decide

/-- An offset that is neither of IOCON's. -/
theorem isIocon_eq_false {r : Byte} (hA : r ≠ 0x0A#8) (hB : r ≠ 0x0B#8) : isIocon r = false := by
  rw [Bool.eq_false_iff, Ne, isIocon_iff]
  exact not_or.mpr ⟨hA, hB⟩

/-- Settles O56: a write and a read of one address, and the layout of addresses. -/
theorem ioconIsOneByte : Obligations.IoconIsOneByte := by
  refine ⟨fun m hw r r' v hm hbank hr hr' => ?_, fun m hw r v hm hbank hr hA hB => ?_, fun hw hw' r r' => ?_⟩
  · have hle : r ≤ 0x15#8 := by rcases hr with rfl | rfl <;> decide
    have hi := (isIocon_iff r).mpr hr
    have hi' := (isIocon_iff r').mpr hr'
    rw [deviceRead_of_isIocon hi', writeDevices_one hbank hle, deviceAddr_of_isIocon hw hi, deviceAddr_of_isIocon hw hi',
      Memory.read_write_same _ _ _ hm]
  · rw [deviceRead_of_not_isIocon (isIocon_eq_false hA hB),
      writeDevices_one hbank (le_of_storedOffset ((storedOffset_iff r).mpr hr)), Memory.read_write_same _ _ _ hm]
  · rw [deviceAddr_eq_iff, firstOffset_eq_iff]

/-! ### The devices' answers -/

/-- The offsets of which a write is refused and a read returns any value (U6), written out. -/
theorem not_storedOffset_iff (r : Byte) :
    storedOffset r = false ↔ ((0x0E#8 ≤ r ∧ r ≤ 0x13#8) ∨ 0x16#8 ≤ r) := by
  revert r; decide

section
variable (p : Params) (present : BitVec 8) (m : Memory) (tx fill : Bytes3)

theorem isWriteRequest_iff : isWriteRequest tx = true ↔ tx.b0.getLsbD 0 = false := by
  rw [isWriteRequest, Bool.not_eq_true']

/-- A write that is not refused is stored in every selected device (R72). -/
theorem deviceOk_of_write (hw : isWriteRequest tx = true)
    (ho : outsideReference (selectedDevices p present m tx.b0) tx = false) :
    deviceOk p present m tx fill = .answer (.ok fill) (writeDevices m (selectedDevices p present m tx.b0) tx.b1 tx.b2) := by
  simp only [deviceOk, ho, hw, if_true, Bool.false_eq_true, if_false]

/-- No read is refused (R73). -/
theorem outsideReference_of_read (hws : List Nat) (hr : isWriteRequest tx = false) : outsideReference hws tx = false := by
  simp [outsideReference, hr]

/-- A read of the one selected device (R73). -/
theorem deviceOk_of_read_one {hw : Nat} (hr : isWriteRequest tx = false) (hsel : selectedDevices p present m tx.b0 = [hw]) :
    deviceOk p present m tx fill = .answer (.ok ⟨fill.b0, fill.b1, readDevice m hw tx.b1 fill.b2⟩) m := by
  simp only [deviceOk, hsel, outsideReference_of_read tx _ hr, hr, Bool.false_eq_true, if_false]

/-- A read that selects none or several (R73). -/
theorem deviceOk_of_read_other (hr : isWriteRequest tx = false) (hsel : (selectedDevices p present m tx.b0).length ≠ 1) :
    deviceOk p present m tx fill = .answer (.ok fill) m := by
  simp only [deviceOk, outsideReference_of_read tx _ hr, hr, Bool.false_eq_true, if_false]
  split
  next hw he => rw [he] at hsel; exact absurd rfl hsel
  next => rfl

end

/-- Settles O51, clause by clause: the equations of `deviceOk`, what a write leaves in a byte, and the register addressed. -/
theorem referenceDevicesAnswer : Obligations.ReferenceDevicesAnswer := by
  refine ⟨fun p present m tx fill => ⟨fun h0 hs hi => ?_, fun h0 hsel => ?_, fun h0 hsel hbad => ?_, fun hw h0 hsel => ?_,
    fun h0 hsel => ?_⟩, fun m hws r v b hm => ⟨?_, writeDevices_read_other hws r v b hm⟩,
    fun m hw r => ⟨addressed_of_bank0 r, addressed_of_bank1 r⟩⟩
  · refine deviceOk_of_write p present m tx fill ((isWriteRequest_iff tx).mpr h0) ?_
    have hstored := (storedOffset_iff tx.b1).mpr hs
    have hicon : (isIocon tx.b1 && tx.b2.getLsbD 7) = false := by
      cases hb : isIocon tx.b1 with
      | false => rfl
      | true => exact hi ((isIocon_iff _).mp hb)
    rw [outsideReference, hstored, hicon]
    simp
  · rw [deviceOk_of_write p present m tx fill ((isWriteRequest_iff tx).mpr h0) (by rw [hsel]; rfl), hsel]
    rfl
  · have hw := (isWriteRequest_iff tx).mpr h0
    have hout : outsideReference (selectedDevices p present m tx.b0) tx = true := by
      have hne : (selectedDevices p present m tx.b0).isEmpty = false := by simpa using hsel
      have hoff : (!storedOffset tx.b1 || (isIocon tx.b1 && tx.b2.getLsbD 7)) = true := by
        rcases hbad with h | h | ⟨h, h7⟩
        · rw [(not_storedOffset_iff _).mpr (.inl h)]; rfl
        · rw [(not_storedOffset_iff _).mpr (.inr h)]; rfl
        · rw [(isIocon_iff _).mpr h, h7, Bool.true_and, Bool.or_true]
      rw [outsideReference, hne, hw, hoff]
      rfl
    rw [deviceOk]
    exact if_pos hout
  · have hr : isWriteRequest tx = false := by rw [isWriteRequest, h0]; rfl
    have he := deviceOk_of_read_one p present m tx fill hr hsel
    refine ⟨fun hs => ?_, fun hs => ?_⟩
    · rw [he, readDevice, if_pos ((storedOffset_iff _).mpr hs)]
    · rw [he, readDevice, if_neg (by rw [(not_storedOffset_iff _).mpr hs]; decide)]
  · exact deviceOk_of_read_other p present m tx fill (by rw [isWriteRequest, h0]; rfl) hsel
  · rintro ⟨hw, hmem, hle, rfl⟩
    exact writeDevices_read_same hws r v hw hm hmem hle

/-- A write to devices leaves each byte as it was, or holding the byte written, where one of them has the register addressed. -/
theorem writeDevices_read_cases {m : Memory} (hws : List Nat) (r v : Byte) (b : Nat) (h : Memory.wf m = true) :
    Memory.read (writeDevices m hws r v) b = Memory.read m b ∨
      (Memory.read (writeDevices m hws r v) b = v ∧ ∃ hw ∈ hws, b = deviceAddr hw (addressed m hw r)) := by
  by_cases hb : ∃ hw ∈ hws, addressed m hw r ≤ 0x15#8 ∧ b = deviceAddr hw (addressed m hw r)
  · obtain ⟨hw, hmem, hle, rfl⟩ := hb
    exact .inr ⟨writeDevices_read_same hws r v hw h hmem hle, hw, hmem, rfl⟩
  · exact .inl (writeDevices_read_other hws r v b h fun hw hmem hle he => hb ⟨hw, hmem, hle, he⟩)

/-- Settles O52: an errored write is a write to some of the selected devices, and an errored read is none. -/
theorem erroredWriteAppliesOrNot : Obligations.ErroredWriteAppliesOrNot := by
  intro p present m m' tx applied a hm h
  simp only [deviceErrReply] at h
  split at h
  next => cases h
  next =>
    split at h
    next hw =>
      cases h
      refine ⟨rfl, fun b => (writeDevices_read_cases _ _ _ b hm).imp_right ?_⟩
      rintro ⟨hv, hw', hmem, hb⟩
      exact ⟨(isWriteRequest_iff tx).mp hw, hv, hw', (List.mem_filter.mp hmem).1, hb⟩
    next => cases h; exact ⟨rfl, fun _ => .inl rfl⟩

end Sys2Proof.Machine
end

section
/-!
PROOFS. What each instruction leaves unchanged, device memory above all (R58, R72, R184), and what a reset does (R240-R242, U5).
-/
namespace Sys2Proof.Machine

/-- A byte that no device selected by the request `tx` has its addressed register at. -/
def NotAddressed (p : Params) (present : BitVec 8) (m : Memory) (tx : Bytes3) (b : Nat) : Prop :=
  ∀ hw ∈ selectedDevices p present m tx.b0, b ≠ deviceAddr hw (addressed m hw tx.b1)

/-- `m'` is what the request `tx` may leave of `m`: a read all of it (R58), a write every byte that it does not address (R72, R77). -/
structure LeavesRest (p : Params) (present : BitVec 8) (m : Memory) (tx : Bytes3) (m' : Memory) : Prop where
  read : isWriteRequest tx = false → m' = m
  other : Memory.wf m = true → ∀ b, NotAddressed p present m tx b → Memory.read m' b = Memory.read m b

section
variable {p : Params} {present : BitVec 8} {m m' : Memory} {tx : Bytes3}

theorem LeavesRest.refl : LeavesRest p present m tx m := ⟨fun _ => rfl, fun _ _ _ => rfl⟩

/-- A write to some of the devices that the request selects. -/
theorem leavesRest_of_write {hws : List Nat} (hw : isWriteRequest tx = true)
    (hsub : ∀ hw ∈ hws, hw ∈ selectedDevices p present m tx.b0) :
    LeavesRest p present m tx (writeDevices m hws tx.b1 tx.b2) where
  read hr := absurd (hw.symm.trans hr) (by decide)
  other hm b hb := writeDevices_read_other hws _ _ b hm fun hw' hmem _ => hb hw' (hsub hw' hmem)

/-- Every answer leaves what the request may leave. -/
theorem leavesRest_of_respond {i : Input} {a : Answer} (h : respond p present m tx i = .answer a m') :
    LeavesRest p present m tx m' := by
  cases i with
  | oracle a => cases h; exact .refl
  | device fill =>
    simp only [respond, deviceOk] at h
    split at h
    next => cases h
    next =>
      split at h
      next hw => cases h; exact leavesRest_of_write hw fun _ hmem => hmem
      next => split at h <;> cases h <;> exact .refl
  | deviceErr applied =>
    simp only [respond, deviceErrReply] at h
    split at h
    next => cases h
    next =>
      split at h
      next hw => cases h; exact leavesRest_of_write hw fun _ hmem => (List.mem_filter.mp hmem).1
      next => cases h; exact .refl
  | _ => cases h

end

section
variable {s t u v : State} {tx : Bytes3} {n : BitVec 3}

theorem Answered.mem_of_read (ha : Answered tx n v t) (hr : isWriteRequest tx = false) : t.mem = v.mem := by
  obtain ⟨i, a, m, he, -, hm, -⟩ := ha.answer
  rw [hm, (leavesRest_of_respond he).read hr]

theorem Answered.read_mem (ha : Answered tx n v t) (hm : Memory.wf v.mem = true) {b : Nat}
    (hb : NotAddressed v.params v.present v.mem tx b) : Memory.read t.mem b = Memory.read v.mem b := by
  obtain ⟨i, a, m, he, -, rfl, -⟩ := ha.answer
  exact (leavesRest_of_respond he).other hm b hb

/-- A read frame leaves device memory, whatever becomes of it (R58). -/
theorem frame_mem_of_read (h : frame tx v = .returned t ∨ frame tx v = .waiting t) (hr : isWriteRequest tx = false) :
    t.mem = v.mem := by
  rcases frame_answered_or_not h with ha | ⟨-, -, hm⟩
  · exact ha.mem_of_read hr
  · exact hm

/-- A frame leaves every byte it does not address, whatever becomes of it. -/
theorem frame_read_mem (h : frame tx v = .returned t ∨ frame tx v = .waiting t) (hm : Memory.wf v.mem = true) {b : Nat}
    (hb : NotAddressed v.params v.present v.mem tx b) : Memory.read t.mem b = Memory.read v.mem b := by
  rcases frame_answered_or_not h with ha | ⟨-, -, he⟩
  · exact ha.read_mem hm hb
  · rw [he]

/-- An instruction that is one frame ends where the frame does. -/
theorem frame_of_frameOutcome (h : (frame tx v).done .next = .next t) : frame tx v = .returned t ∨ frame tx v = .waiting t := by
  rcases FrameRun.done_eq_next h with hw | ⟨u, hu, ⟨⟩⟩
  · exact .inr hw
  · exact .inl hu

end

/-- Settles O35: a request frame is the frame procedure on its request. -/
theorem requestFramesFrame : Obligations.RequestFramesFrame := by
  refine fun s t a r v => ⟨fun h => ?_, fun h => ?_⟩
  · rw [exec_writeFrame] at h
    have hf := frame_of_frameOutcome h
    have hs := frame_sameCommand hf
    exact ⟨hs.rsp, hs.ph, hs.cmd, hs.work, hs.params, hs.port, hs.present, fun hm _ hb => frame_read_mem hf hm hb⟩
  · rw [exec_readFrame] at h
    have hf := frame_of_frameOutcome h
    have hs := frame_sameCommand hf
    refine ⟨hs.rsp, hs.ph, hs.cmd, hs.work, hs.params, hs.port, hs.present, fun b => ?_⟩
    rw [frame_mem_of_read hf (isWriteRequest_encRead a r)]

/-- A single-frame command has done its frame, and what follows the frame has touched neither C.*, W.* nor memory. -/
theorem done_of_oneFrame {tx : Bytes3} {v t : State} {k : State → Host.Outcome State Fault Refusal}
    (hk : ∀ u, ∃ c r, k u = .next (finish c r none u)) (h : (frame tx v).done k = .next t) :
    ∃ u, (frame tx v = .returned u ∨ frame tx v = .waiting u) ∧ t.cmd = u.cmd ∧ t.work = u.work ∧ t.mem = u.mem := by
  rcases FrameRun.done_eq_next h with hw | ⟨u, hu, ht⟩
  · exact ⟨t, .inr hw, rfl, rfl, rfl⟩
  · obtain ⟨c, r, hc⟩ := hk u
    rw [hc] at ht
    cases ht
    exact ⟨u, .inl hu, rfl, rfl, rfl⟩

/-- Settles O32: a busy block changes nothing, and an accepted REG_WRITE is its latched fields and one write frame. -/
theorem regWriteFrame : Obligations.RegWriteFrame := by
  intro s t a r v h
  cases hb : s.rsp.busy with
  | true =>
    rw [busyBlockIgnoresCommands s _ hb rfl] at h
    cases h
    exact ⟨rfl, rfl, rfl, rfl, rfl, rfl, fun hbusy => (busyRsp_of_busy hbusy).symm, fun _ _ _ => rfl⟩
  | false =>
    obtain ⟨hparams, hport, hpresent, hrsp⟩ := exec_command_keeps rfl hb h
    rw [exec_regWrite_of_idle a r v hb] at h
    obtain ⟨u, hf, hcmd, hwork, hmem⟩ := done_of_oneFrame (fun u => ⟨_, _, afterRegWrite_eq u⟩) h
    have hs := frame_sameCommand hf
    rw [hs.cmd] at hcmd
    refine ⟨hwork.trans hs.work, by rw [hcmd]; rfl, by rw [hcmd]; rfl, hparams, hport, hpresent, hrsp,
      fun hm b hb => ?_⟩
    rw [hmem]
    exact frame_read_mem hf hm hb

/-- Settles O33: a busy block changes nothing, and an accepted REG_READ is its latched fields and one read frame. -/
theorem regReadFrame : Obligations.RegReadFrame := by
  intro s t a r h
  cases hb : s.rsp.busy with
  | true =>
    rw [busyBlockIgnoresCommands s _ hb rfl] at h
    cases h
    exact ⟨rfl, rfl, rfl, rfl, rfl, rfl, rfl, fun hbusy => (busyRsp_of_busy hbusy).symm, fun _ => rfl⟩
  | false =>
    obtain ⟨hparams, hport, hpresent, hrsp⟩ := exec_command_keeps rfl hb h
    rw [exec_regRead_of_idle a r hb] at h
    obtain ⟨u, hf, hcmd, hwork, hmem⟩ := done_of_oneFrame (fun u => ⟨_, _, afterRegRead_eq u⟩) h
    have hs := frame_sameCommand hf
    rw [hs.cmd] at hcmd
    refine ⟨hwork.trans hs.work, by rw [hcmd]; rfl, by rw [hcmd]; rfl, by rw [hcmd]; rfl, hparams, hport,
      hpresent, hrsp, fun b => ?_⟩
    rw [hmem, frame_mem_of_read hf (isWriteRequest_encRead a r)]
    rfl

/-! ### SET_OUTPUT -/

/-- `m` is the memory of `c` but for the registers that the latch write of the SET_OUTPUT in `c` addresses. -/
def OnlyLatchWritten (c : State) (m : Memory) : Prop :=
  Memory.wf c.mem = true → ∀ b, NotAddressed c.params c.present c.mem (encWrite c.cmd.addr c.work.latReg 0x00#8) b →
    Memory.read m b = Memory.read c.mem b

section
variable {c t u v w : State} {tx : Bytes3} {n : BitVec 3}

/-- An answered frame of a SET_OUTPUT: a read has left memory, and the write, which the reads before it leave as it was, every
byte it does not address. -/
theorem onlyLatchWritten_of_answered (hc : InCommand c v) (hph : v.ph.ofSetOutput = true) (hm : OnlyLatchWritten c v.mem)
    (heq : v.ph ≠ .fVrb → v.mem = c.mem) (htx : requestOf (dueFrame v) = some tx) (ha : Answered tx n v t) :
    OnlyLatchWritten c t.mem ∧ (t.ph = .fDir ∨ t.ph = .fLat → t.mem = c.mem) := by
  rcases request_of_setOutput hph htx with ⟨hwr, rfl⟩ | ⟨-, hread⟩
  · refine ⟨fun hwf b hb => ?_, ?_⟩
    · have hmem := heq (by rw [hwr]; decide)
      have haddr : NotAddressed v.params v.present v.mem (encWrite v.cmd.addr v.work.latReg v.work.new) b := by
        rw [hc.params, hc.present, hmem, hc.cmd, hc.latReg]
        exact hb
      rw [ha.read_mem (hmem ▸ hwf) haddr, hmem]
    · rw [ha.same.ph, hwr]; rintro (h | h) <;> cases h
  · rw [ha.mem_of_read hread]
    refine ⟨hm, fun h => heq fun hv => ?_⟩
    rw [ha.same.ph, hv] at h
    rcases h with h | h <;> cases h

/-- The outline of a SET_OUTPUT's effect on the devices. -/
theorem latchWrite_outline (c : State) :
    Outline
      (fun v => InCommand c v ∧ v.ph.ofSetOutput = true ∧ OnlyLatchWritten c v.mem ∧ (v.ph ≠ .fVrb → v.mem = c.mem))
      (fun u => InCommand c u ∧ OnlyLatchWritten c u.mem ∧ (u.ph = .fDir ∨ u.ph = .fLat → u.mem = c.mem))
      (fun t => OnlyLatchWritten c t.mem) where
  returned hv htx hu := by
    obtain ⟨hc, hph, hm, heq⟩ := hv
    have ha := (frame_spec hu).2.2
    exact ⟨hc.of_same ha.same, onlyLatchWritten_of_answered hc hph hm heq htx ha⟩
  waiting hv htx hw := by
    obtain ⟨hc, hph, hm, heq⟩ := hv
    rcases frame_answered_or_not (.inr hw) with ha | ⟨-, -, he⟩
    · exact (onlyLatchWritten_of_answered hc hph hm heq htx ha).1
    · exact he ▸ hm
  finished {u t} hu hf := by
    have hmem : t.mem = u.mem := by cases hf <;> rfl
    exact hmem ▸ hu.2.1
  proceeds hu hp := by
    obtain ⟨hc, hm, heq⟩ := hu
    refine ⟨hc.proceeds hp, hp.ofSetOutput.2, ?_⟩
    cases hp with
    | latchRead hph _ => exact ⟨hm, fun _ => heq (.inl hph)⟩
    | latchWrite hph _ => exact ⟨hm, fun _ => heq (.inr hph)⟩
    | verify _ _ => exact ⟨hm, fun h => absurd rfl h⟩

end

/-- Settles O34: a busy block changes nothing, a pin above 15 writes only RSP and C.*, and an accepted SET_OUTPUT writes memory as
its outline says. -/
theorem setOutputFrame : Obligations.SetOutputFrame := by
  intro s t a p d h
  cases hb : s.rsp.busy with
  | true =>
    rw [busyBlockIgnoresCommands s _ hb rfl] at h
    cases h
    exact ⟨rfl, rfl, rfl, rfl, rfl, fun hbusy => (busyRsp_of_busy hbusy).symm, fun _ => ⟨rfl, fun _ => rfl⟩,
      fun _ _ _ _ _ _ => rfl⟩
  | false =>
    obtain ⟨hparams, hport, hpresent, hrsp⟩ := exec_command_keeps rfl hb h
    rcases exec_command_cases rfl hb h with ⟨a, p, d, ⟨⟩, hnone, rfl⟩ | ⟨v, ha, hr⟩
    · exact ⟨rfl, rfl, hparams, hport, hpresent, hrsp, fun _ => ⟨rfl, fun _ => rfl⟩, fun _ _ _ _ _ _ => rfl⟩
    · have hcmd := ((moved_outline v).of_runs hr (.refl v)).cmd
      have hmem := (latchWrite_outline v).of_runs hr
      cases ha with
      | @setOutput a p d half bit hp =>
        refine ⟨by rw [hcmd]; rfl, by rw [hcmd]; rfl, hparams, hport, hpresent, hrsp, fun hnone => ?_, ?_⟩
        · rw [hp] at hnone; cases hnone
        · rintro hm h' bit' hp' b hb'
          rw [hp] at hp'
          cases hp'
          exact hmem ⟨.refl _, rfl, fun _ _ _ => rfl, fun _ => rfl⟩ hm b hb'

/-! ### Reset -/

/-- The draws of a cut frame leave their bytes, each in the register that the frame addresses in its device (U5). -/
theorem cutDevices_read_same (p : Params) (present : BitVec 8) {m : Memory} (tx : Bytes3) {draws : List CutDraw} {d : CutDraw}
    (h : Memory.wf m = true) (hn : (draws.map CutDraw.hw).Nodup) (hd : d ∈ draws)
    (hsel : d.hw.toNat ∈ selectedDevices p present m tx.b0) (hle : addressed m d.hw.toNat tx.b1 ≤ 0x15#8) :
    Memory.read (cutDevices p present m tx draws) (deviceAddr d.hw.toNat (addressed m d.hw.toNat tx.b1)) = d.v := by
  have hinj : Function.Injective (BitVec.toNat : BitVec 3 → Nat) := fun _ _ => BitVec.eq_of_toNat_eq
  have hnodup : (draws.map fun d => d.hw.toNat).Nodup := by
    have := hn.map hinj
    rwa [List.map_map] at this
  refine foldl_store_read_same m tx.b1 (fun d : CutDraw => d.hw.toNat) CutDraw.v _ d h (List.mem_filter.mpr ⟨hd, ?_⟩)
    (hnodup.sublist (List.filter_sublist.map _)) hle
  simpa using hsel

/-- A reset that finds no frame in progress changes no device; one that cuts a frame short has the effect of its draws. -/
theorem hostReset_mem (draws : List CutDraw) (s : State) :
    (s.csN = true → (hostReset draws s).mem = s.mem) ∧
      (s.csN = false → (hostReset draws s).mem = cutDevices s.params s.present s.mem s.tx draws) := by
  refine ⟨fun hc => ?_, fun hc => ?_⟩ <;> (simp only [hostReset, hc]; rfl)

/-- Settles O37: the reset values, and the draws' effect on the devices where a frame was cut short. -/
theorem resetAbandonsTheCommand : Obligations.ResetAbandonsTheCommand := by
  intro s draws rest hin
  obtain ⟨hparams, hport, hpresent, htrace, hinputs⟩ := hostReset_keeps draws (withInputs rest s)
  obtain ⟨hmem, hcut⟩ := hostReset_mem draws (withInputs rest s)
  obtain ⟨m, hm⟩ := hostReset_eq_resetBlock draws (withInputs rest s)
  have hready : Ready (hostReset draws (withInputs rest s)) := by rw [hm]; exact ⟨rfl, rfl, rfl⟩
  have hidle := hostReset_idle draws (withInputs rest s)
  refine ⟨_, step_of_reset hin, hidle.1, hready, by rw [hidle.2]; exact word_reset, htrace, hinputs, hport, hparams, hpresent,
    hmem, fun hc hwf => ?_⟩
  rw [hcut hc]
  exact ⟨fun b hb => cutDevices_read_other _ _ _ _ b hwf fun hw hmem _ => hb hw hmem,
    fun hn d hd hsel hle => cutDevices_read_same _ _ _ hwf hn hd hsel hle⟩

end Sys2Proof.Machine
end

section
/-!
PROOFS. What a SET_OUTPUT answers (rows 2-8 of R185). Its frames come back one after another (`Reached`), whether the command was
accepted in this step or had waited; the lines after each frame then end the command or ask for the next one.
-/
namespace Sys2Proof.Machine

/-- The command of `c` is at `u`, where the frame of phase `ph` has come back answered `a` and has settled: since `c` the trace has
gained `events`, the devices are at `mem`, and `rest` is still to come from the world. -/
structure Reached (c u : State) (ph : Phase) (a : Answer) (events : List FrameEvent) (mem : Memory) (rest : List Input) :
    Prop where
  command : InCommand c u
  bit : u.work.bit = c.work.bit
  phase : u.ph = ph
  csN : u.csN = true
  settled : u.settled = true
  nFrames : u.nFrames = framesAt ph
  trace : u.trace = c.trace ++ events
  mem : u.mem = mem
  inputs : u.inputs = rest
  answer : lastAnswer u = a

/-- Going on to the next frame changes PH and W.* alone. -/
theorem Proceeds.keeps {u w : State} (h : Proceeds u w) :
    w.csN = u.csN ∧ w.settled = u.settled ∧ w.nFrames = u.nFrames ∧ w.mem = u.mem ∧ w.inputs = u.inputs ∧
      w.work.bit = u.work.bit ∧ framesAt w.ph = framesAt u.ph + 1#3 := by
  cases h with
  | latchRead hph _ => rw [hph]; exact ⟨rfl, rfl, rfl, rfl, rfl, rfl, rfl⟩
  | latchWrite hph _ => rw [hph]; exact ⟨rfl, rfl, rfl, rfl, rfl, rfl, rfl⟩
  | verify hph _ => rw [hph]; exact ⟨rfl, rfl, rfl, rfl, rfl, rfl, rfl⟩

/-- The third byte of an `Ok` response is the read's value, and `Err` leaves none (R154, R172). -/
theorem readValue_eq_answerByte (u : State) : u.readValue = answerByte (lastAnswer u) := by
  unfold State.readValue lastAnswer
  cases u.rxHeld <;> rfl

/-- An `Ok` answer is one that RX holds (R24). -/
theorem rxHeld_of_lastAnswer {u : State} : (lastAnswer u = .err → u.rxHeld = false) ∧ (∀ rx, lastAnswer u = .ok rx → u.rxHeld = true) := by
  unfold lastAnswer
  cases u.rxHeld <;> simp

section
variable {c s u w : State} {ph : Phase} {a a' : Answer} {events : List FrameEvent} {mem mem' : Memory} {rest rest' : List Input}
  {tx rx : Bytes3} {new : Byte}

/-- `finish` where a frame has come back ends the command with the given result (R27). -/
theorem Reached.finish (h : Reached c u ph a events mem rest) (code : Code) (r v : Option Byte) :
    CommandEnded c (finish code r v u) code r v (frameCount ph) events mem rest := by
  have hrsp : (Machine.finish code r v u).rsp =
      ⟨false, r.isSome, v.isSome, code, BitVec.ofNat 4 (frameCount ph), v.getD 0x00#8, r.getD 0x00#8⟩ := by
    rw [finish_rsp, h.nFrames, frameCount, BitVec.ofNat_toNat]; rfl
  exact ⟨hrsp, rfl, ⟨rfl, h.csN, h.settled⟩, h.trace, h.mem, h.inputs, h.command.params, h.command.port, h.command.present⟩

/-- The next frame comes back too. -/
theorem Reached.next (h : Reached c u ph a events mem rest) (hp : Proceeds u w)
    (hb : FrameBack c mem rest tx a' mem' rest') :
    ∃ u', frame tx w = .returned u' ∧ Reached c u' w.ph a' (events ++ [⟨tx, a'⟩]) mem' rest' ∧ u'.work = w.work := by
  obtain ⟨hcs, hset, hn, hmem, hin, hbit, hcount⟩ := hp.keeps
  have hw := h.command.proceeds hp
  obtain ⟨i, n, hi, hsettles, hr⟩ := hb
  have hr' : Replies w w.mem tx i a' mem' := by
    rw [Replies, hw.params, hw.present, hmem, h.mem]
    exact hr
  have hn' : SettlesIn w n := by rw [SettlesIn, hw.params]; exact hsettles
  obtain ⟨u', hu, hback⟩ := frame_cameBack (hcs.trans h.csN) (hset.trans h.settled) hn' (hin.trans (h.inputs.trans hi)) hr'
  refine ⟨u', hu, ⟨hw.of_same hback.same, by rw [hback.same.work, hbit, h.bit], hback.same.ph, hback.csN, hback.settled, ?_, ?_,
    hback.mem, hback.inputs, hback.answer⟩, hback.same.work⟩
  · rw [hback.nFrames, hn, h.nFrames, hcount, h.phase]
  · rw [hback.trace, hp.frameCount.2, h.trace, List.append_assoc]

/-- The lines of SET_OUTPUT that follow the frame of its phase (R175). -/
theorem afterFrame_of_fDir (h : u.ph = .fDir) : afterFrame u = afterDirection u := by simp only [afterFrame, h]

theorem afterFrame_of_fLat (h : u.ph = .fLat) : afterFrame u = afterLatchRead u := by simp only [afterFrame, h]

theorem afterFrame_of_fWr (h : u.ph = .fWr) : afterFrame u = afterLatchWrite u := by simp only [afterFrame, h]

theorem afterFrame_of_fVrb (h : u.ph = .fVrb) : afterFrame u = afterVerify u := by simp only [afterFrame, h]

/-- Past the guard the command goes on to its latch read (R178, R180). -/
theorem Reached.latchRead (h : Reached c u .fDir (.ok rx) events mem rest) (hz : rx.b2 = 0x00#8)
    (hb : FrameBack c mem rest (encRead c.cmd.addr c.work.latReg) a' mem' rest') :
    ∃ u', afterFrame u = afterFrame u' ∧
      Reached c u' .fLat a' (events ++ [⟨encRead c.cmd.addr c.work.latReg, a'⟩]) mem' rest' := by
  have hv : u.readValue = some 0x00#8 := by rw [readValue_eq_answerByte, h.answer, ← hz]; rfl
  obtain ⟨u', hu, hr, -⟩ := h.next (.latchRead h.phase hv) hb
  have htx : encRead u.cmd.addr u.work.latReg = encRead c.cmd.addr c.work.latReg := by rw [h.command.cmd, h.command.latReg]
  have hzero : dirAllOutputs 0x00#8 = true := rfl
  refine ⟨u', ?_, hr⟩
  rw [afterFrame_of_fDir h.phase, afterFrame_of_fLat hr.phase]
  simp only [afterDirection, hv, hzero, readReg, htx, hu, FrameRun.done_returned]

/-- The latch byte read, the command goes on to its write (R181, R182). -/
theorem Reached.latchWrite (h : Reached c u .fLat (.ok rx) events mem rest) (hnew : new = applyBit rx.b2 c.work.bit c.cmd.d)
    (hb : FrameBack c mem rest (encWrite c.cmd.addr c.work.latReg new) a' mem' rest') :
    ∃ u', afterFrame u = afterFrame u' ∧
      Reached c u' .fWr a' (events ++ [⟨encWrite c.cmd.addr c.work.latReg new, a'⟩]) mem' rest' ∧ u'.work.new = new := by
  have hv : u.readValue = some rx.b2 := by rw [readValue_eq_answerByte, h.answer]; rfl
  obtain ⟨u', hu, hr, hwork⟩ := h.next (.latchWrite h.phase hv) hb
  have hbyte : applyBit rx.b2 u.work.bit u.cmd.d = new := by rw [h.command.cmd, h.bit, hnew]
  have htx : encWrite u.cmd.addr u.work.latReg new = encWrite c.cmd.addr c.work.latReg new := by
    rw [h.command.cmd, h.command.latReg]
  refine ⟨u', ?_, hr, by rw [hwork]; exact hbyte⟩
  rw [afterFrame_of_fLat h.phase, afterFrame_of_fWr hr.phase]
  simp only [afterLatchRead, hv, writeReg, hbyte, htx, hu, FrameRun.done_returned]

/-- With VERIFY_READBACK a successful write is followed by the re-read (R183). -/
theorem Reached.verify (h : Reached c u .fWr (.ok rx) events mem rest) (hverify : c.params.verifyReadback = true)
    (hb : FrameBack c mem rest (encRead c.cmd.addr c.work.latReg) a' mem' rest') :
    ∃ u', afterFrame u = afterFrame u' ∧
      Reached c u' .fVrb a' (events ++ [⟨encRead c.cmd.addr c.work.latReg, a'⟩]) mem' rest' ∧ u'.work.new = u.work.new := by
  have hv : u.params.verifyReadback = true := by rw [h.command.params, hverify]
  obtain ⟨u', hu, hr, hwork⟩ := h.next (.verify h.phase hv) hb
  have htx : encRead u.cmd.addr u.work.latReg = encRead c.cmd.addr c.work.latReg := by rw [h.command.cmd, h.command.latReg]
  refine ⟨u', ?_, hr, by rw [hwork]; rfl⟩
  rw [afterFrame_of_fWr h.phase, afterFrame_of_fVrb hr.phase]
  simp only [afterLatchWrite, rxHeld_of_lastAnswer.2 rx h.answer, hv, readReg, htx, hu, FrameRun.done_returned]

/-- A direction read that fails, or is not 0x00, ends the command (R178, R214). -/
theorem Reached.stopsAtGuard (h : Reached c u .fDir a events mem rest) (hz : answerByte a ≠ some 0x00#8) :
    ∃ t, afterFrame u = .next t ∧
      CommandEnded c t (if a = .err then .errTransport else .errConfigMismatch) (answerByte a) none 1 events mem rest := by
  have hv := readValue_eq_answerByte u
  rw [h.answer] at hv
  rw [afterFrame_of_fDir h.phase]
  cases a with
  | err => exact ⟨_, by rw [afterDirection, hv]; rfl, h.finish .errTransport none none⟩
  | ok rx =>
    have hne : dirAllOutputs rx.b2 = false := beq_eq_false_iff_ne.mpr fun he => hz (congrArg some he)
    refine ⟨Machine.finish .errConfigMismatch (some rx.b2) none (directionValue rx.b2 u), ?_,
      h.finish .errConfigMismatch (some rx.b2) none⟩
    simp only [afterDirection, hv, answerByte, hne]

/-- A latch read that fails ends the command (R180). -/
theorem Reached.stopsAtLatchRead (h : Reached c u .fLat .err events mem rest) :
    ∃ t, afterFrame u = .next t ∧ CommandEnded c t .errTransport none none 2 events mem rest := by
  have hv := readValue_eq_answerByte u
  rw [h.answer] at hv
  exact ⟨_, by rw [afterFrame_of_fLat h.phase, afterLatchRead, hv]; rfl, h.finish .errTransport none none⟩

/-- A latch write that fails, or that is not to be verified, ends the command (R182). -/
theorem Reached.written (h : Reached c u .fWr a events mem rest) (hnew : u.work.new = new)
    (hend : a = .err ∨ c.params.verifyReadback = false) :
    ∃ t, afterFrame u = .next t ∧
      CommandEnded c t (if a = .err then .errTransport else .ok) (if a = .err then none else some new) none 3 events mem rest := by
  rw [afterFrame_of_fWr h.phase]
  cases a with
  | err =>
    refine ⟨_, ?_, h.finish .errTransport none none⟩
    simp only [afterLatchWrite, rxHeld_of_lastAnswer.1 h.answer]
  | ok rx =>
    have hv : u.params.verifyReadback = false := by rw [h.command.params]; exact hend.resolve_left nofun
    refine ⟨_, ?_, h.finish .ok (some new) none⟩
    simp only [afterLatchWrite, rxHeld_of_lastAnswer.2 rx h.answer, hv, hnew]

/-- The re-read ends the command, whatever came of it (R183). -/
theorem Reached.verified (h : Reached c u .fVrb a events mem rest) (hnew : u.work.new = new) :
    ∃ t, afterFrame u = .next t ∧ CommandEnded c t .ok (some new) (answerByte a) 4 events mem rest := by
  have hv := readValue_eq_answerByte u
  rw [h.answer] at hv
  rw [afterFrame_of_fVrb h.phase]
  cases a with
  | err => exact ⟨_, by rw [afterVerify, hv, ← hnew]; rfl, h.finish .ok (some new) none⟩
  | ok rx =>
    exact ⟨Machine.finish .ok (some new) (some rx.b2) (verifyValue rx.b2 u), by rw [afterVerify, hv, ← hnew]; rfl,
      h.finish .ok (some new) (some rx.b2)⟩

/-! ### The command accepted in this step, and the command that had waited -/

/-- An accepted SET_OUTPUT whose direction read comes back goes on from there. -/
theorem exec_setOutput_reached {addr p : Byte} {d : Bool} {h : Half} {bit : BitVec 3} (hready : Ready s)
    (hp : pinDecode p = some (h, bit))
    (hb : FrameBack s s.mem s.inputs (encRead addr (halfRegs s.params.regMap h).1) a mem rest) :
    ∃ u, exec (.setOutput addr p d) s = afterFrame u ∧
      Reached (selectHalf h bit (latchSetOutput addr p d s)) u .fDir a
        [⟨encRead addr (halfRegs s.params.regMap h).1, a⟩] mem rest := by
  obtain ⟨hbusy, hcs, hset⟩ := hready
  obtain ⟨i, n, hin, hn, hr⟩ := hb
  obtain ⟨u, hu, hback⟩ := frame_cameBack (s := selectHalf h bit (latchSetOutput addr p d s)) hcs hset hn hin hr
  refine ⟨u, ?_, (InCommand.refl _).of_same hback.same, by rw [hback.same.work], hback.same.ph, hback.csN, hback.settled,
    hback.nFrames, hback.trace, hback.mem, hback.inputs, hback.answer⟩
  rw [exec_setOutput_of_valid hbusy hp, hu, FrameRun.done_returned, afterFrame_of_fDir hback.same.ph]

/-- A command whose wait is over goes on from the frame it waited for. -/
theorem Resumed.reached (h : Resumed s ph a events mem rest) (hph : ph ≠ .idle) :
    ∃ u, step s = afterFrame u ∧ Reached s u ph a events mem rest ∧ u.work = s.work := by
  obtain ⟨u, hstep, hback⟩ := h.cameBack hph
  exact ⟨u, hstep, ⟨(InCommand.refl s).of_same hback.same, by rw [hback.same.work], hback.same.ph.trans h.2.1, hback.csN,
    hback.settled, hback.nFrames, hback.trace, hback.mem, hback.inputs, hback.answer⟩, hback.same.work⟩

theorem LatchReadBack.reached (h : LatchReadBack s a events mem rest) :
    ∃ u, step s = afterFrame u ∧ Reached s u .fLat a events mem rest := by
  rcases h with h | ⟨rx, events0, mem0, rest0, h, hz, hb, rfl⟩
  · obtain ⟨u, hstep, hr, -⟩ := h.reached (by decide)
    exact ⟨u, hstep, hr⟩
  · obtain ⟨u, hstep, hr, -⟩ := h.reached (by decide)
    obtain ⟨u', hu, hr'⟩ := hr.latchRead hz hb
    exact ⟨u', hstep.trans hu, hr'⟩

theorem LatchWriteBack.reached (h : LatchWriteBack s new a events mem rest) :
    ∃ u, step s = afterFrame u ∧ Reached s u .fWr a events mem rest ∧ u.work.new = new := by
  rcases h with ⟨h, rfl⟩ | ⟨rx, events0, mem0, rest0, h, hnew, hb, rfl⟩
  · obtain ⟨u, hstep, hr, hwork⟩ := h.reached (by decide)
    exact ⟨u, hstep, hr, by rw [hwork]⟩
  · obtain ⟨u, hstep, hr⟩ := h.reached
    obtain ⟨u', hu, hr', hn⟩ := hr.latchWrite hnew hb
    exact ⟨u', hstep.trans hu, hr', hn⟩

theorem VerifyBack.reached (h : VerifyBack s new a events mem rest) :
    ∃ u, step s = afterFrame u ∧ Reached s u .fVrb a events mem rest ∧ u.work.new = new := by
  rcases h with ⟨h, rfl⟩ | ⟨hverify, rx, events0, mem0, rest0, h, hb, rfl⟩
  · obtain ⟨u, hstep, hr, hwork⟩ := h.reached (by decide)
    exact ⟨u, hstep, hr, by rw [hwork]⟩
  · obtain ⟨u, hstep, hr, hn⟩ := h.reached
    obtain ⟨u', hu, hr', hn'⟩ := hr.verify hverify hb
    exact ⟨u', hstep.trans hu, hr', hn'.trans hn⟩

end

/-- Settles O27: the direction read comes back, and the guard ends the command. -/
theorem setOutputStopsAtTheGuard : Obligations.SetOutputStopsAtTheGuard := by
  refine ⟨fun s a p d h bit i ans mem n rest hready hn hp hin hr hz => ?_, fun s ans events mem rest h hz => ?_⟩
  · obtain ⟨u, hu, hdir⟩ := exec_setOutput_reached (d := d) hready hp ⟨i, n, hin, hn, hr⟩
    rw [hu]
    exact hdir.stopsAtGuard hz
  · obtain ⟨u, hu, hdir, -⟩ := h.reached (by decide)
    rw [hu]
    exact hdir.stopsAtGuard hz

/-- Settles O28: the latch read comes back errored. -/
theorem setOutputStopsAtTheLatchRead : Obligations.SetOutputStopsAtTheLatchRead := by
  refine ⟨fun s a p d h bit i1 i2 rx1 m1 m2 n1 n2 rest hready hn1 hn2 hp hin hr1 hz hr2 => ?_,
    fun s events mem rest h => ?_⟩
  · obtain ⟨u, hu, hdir⟩ := exec_setOutput_reached (d := d) hready hp ⟨i1, n1, hin, hn1, hr1⟩
    obtain ⟨u2, hu2, hlat⟩ := hdir.latchRead hz ⟨i2, n2, rfl, hn2, hr2⟩
    rw [hu, hu2]
    exact hlat.stopsAtLatchRead
  · obtain ⟨u, hu, hlat⟩ := h.reached
    rw [hu]
    exact hlat.stopsAtLatchRead

/-- Settles O29: the latch write comes back and is not verified. -/
theorem setOutputWritesTheLatch : Obligations.SetOutputWritesTheLatch := by
  refine ⟨fun s a p d h bit i1 i2 i3 rx1 rx2 ans m1 m2 m3 n1 n2 n3 rest hready hn1 hn2 hn3 hp hin hr1 hz hr2 hr3 hend => ?_,
    fun s new ans events mem rest h hend => ?_⟩
  · obtain ⟨u, hu, hdir⟩ := exec_setOutput_reached (d := d) hready hp ⟨i1, n1, hin, hn1, hr1⟩
    obtain ⟨u2, hu2, hlat⟩ := hdir.latchRead hz ⟨i2, n2, rfl, hn2, hr2⟩
    obtain ⟨u3, hu3, hwr, hnew⟩ := hlat.latchWrite rfl ⟨i3, n3, rfl, hn3, hr3⟩
    rw [hu, hu2, hu3]
    exact hwr.written hnew hend
  · obtain ⟨u, hu, hwr, hnew⟩ := h.reached
    rw [hu]
    exact hwr.written hnew hend

/-- Settles O30: the re-read comes back. -/
theorem setOutputVerifies : Obligations.SetOutputVerifies := by
  refine ⟨fun s a p d h bit i1 i2 i3 i4 rx1 rx2 rx3 ans m1 m2 m3 m4 n1 n2 n3 n4 rest hready hn1 hn2 hn3 hn4 hp hverify hin hr1
    hz hr2 hr3 hr4 => ?_, fun s new ans events mem rest h => ?_⟩
  · obtain ⟨u, hu, hdir⟩ := exec_setOutput_reached (d := d) hready hp ⟨i1, n1, hin, hn1, hr1⟩
    obtain ⟨u2, hu2, hlat⟩ := hdir.latchRead hz ⟨i2, n2, rfl, hn2, hr2⟩
    obtain ⟨u3, hu3, hwr, hnew⟩ := hlat.latchWrite rfl ⟨i3, n3, rfl, hn3, hr3⟩
    obtain ⟨u4, hu4, hvrb, hnew'⟩ := hwr.verify hverify ⟨i4, n4, rfl, hn4, hr4⟩
    rw [hu, hu2, hu3, hu4]
    exact hvrb.verified (hnew'.trans hnew)
  · obtain ⟨u, hu, hvrb, hnew⟩ := h.reached
    rw [hu]
    exact hvrb.verified hnew

end Sys2Proof.Machine
end

section
/-!
PROOFS. Whole operations on the reference devices (R59, R61, R175, R245): the devices' answers put into what the commands report.
-/
namespace Sys2Proof.Machine

section
variable {s : State} {m : Memory} {a r v : Byte} {hw : Nat}

/-- The devices that a read of an even address selects are those that a write of it does (R51, R71). -/
theorem selectedDevices_or_one (p : Params) (present : BitVec 8) (m : Memory) (a : Byte) :
    selectedDevices p present m (a ||| 0x01#8) = selectedDevices p present m a := by
  have hupper : (a ||| 0x01#8).extractLsb' 4 4 = a.extractLsb' 4 4 := by revert a; decide
  have hselect : (a ||| 0x01#8).extractLsb' 1 3 = a.extractLsb' 1 3 := by revert a; decide
  simp only [selectedDevices, selectsDevice, hupper, hselect]

/-- A device's answer to a read of one of its plain registers (R73). -/
theorem replies_read (fill : Bytes3) (hsel : selectedDevices s.params s.present m (a ||| 0x01#8) = [hw])
    (hbank : (deviceIocon m hw).getLsbD 7 = false) (hr : storedOffset r = true) (hi : isIocon r = false) :
    Replies s m (encRead a r) (.device fill) (.ok ⟨fill.b0, fill.b1, Memory.read m (deviceAddr hw r)⟩) m := by
  have h := deviceOk_of_read_one s.params s.present m (encRead a r) fill (isWriteRequest_encRead a r) hsel
  have hval : readDevice m hw r fill.b2 = Memory.read m (deviceAddr hw r) := by
    rw [readDevice, addressed_of_bank0 r hbank, if_pos hr, deviceRead_of_not_isIocon hi]
  rw [← hval]
  exact h

/-- The devices' answer to a write of one of their plain registers (R72). -/
theorem replies_write (fill : Bytes3) (hr : storedOffset r = true) (hi : isIocon r = false) :
    Replies s m (encWrite a r v) (.device fill) (.ok fill)
      (writeDevices m (selectedDevices s.params s.present m (a &&& 0xFE#8)) r v) :=
  deviceOk_of_write s.params s.present m (encWrite a r v) fill (isWriteRequest_encWrite a r v) (by
    rw [outsideReference, show (encWrite a r v).b1 = r from rfl, hr, hi]
    simp)

/-- A write of a plain register of devices with BANK = 0 leaves every device's I/O-config byte. -/
theorem deviceIocon_writeDevices (hws : List Nat) (hm : Memory.wf m = true) (hi : isIocon r = false)
    (hbank : ∀ hw ∈ hws, (deviceIocon m hw).getLsbD 7 = false) (hw' : Nat) :
    deviceIocon (writeDevices m hws r v) hw' = deviceIocon m hw' := by
  refine writeDevices_read_other hws r v _ hm fun hw hmem _ he => ?_
  rw [addressed_of_bank0 r (hbank hw hmem)] at he
  have hicon : isIocon r = true := by
    rw [isIocon_iff]
    rcases ((ioconIsOneByte.2.2 _ _ _ _).mp he).2 with h | ⟨-, h⟩
    · exact .inl h.symm
    · exact h
  rw [hi] at hicon; cases hicon

/-- Which devices a frame selects depends on their I/O-config bytes alone. -/
theorem selectedDevices_of_iocon {m m' : Memory} (h : ∀ hw, deviceIocon m' hw = deviceIocon m hw) (p : Params)
    (present : BitVec 8) (b : Byte) : selectedDevices p present m' b = selectedDevices p present m b := by
  simp only [selectedDevices, selectsDevice, h]

/-- Writing devices the same byte once more leaves them as they are (R59). -/
theorem writeDevices_twice (hws : List Nat) (hm : Memory.wf m = true) (hr : r ≤ 0x15#8) (hi : isIocon r = false)
    (hbank : ∀ hw ∈ hws, (deviceIocon m hw).getLsbD 7 = false) :
    writeDevices (writeDevices m hws r v) hws r v = writeDevices m hws r v := by
  have hwf := writeDevices_wf hws r v hm
  refine canonicalMemoriesAreEqual _ _ (writeDevices_wf hws r v hwf) hwf fun b => ?_
  rcases writeDevices_read_cases hws r v b hwf with h | ⟨h, hw, hmem, rfl⟩
  · exact h
  · have hbank' : (deviceIocon (writeDevices m hws r v) hw).getLsbD 7 = false := by
      rw [deviceIocon_writeDevices hws hm hi hbank]
      exact hbank hw hmem
    have hsame := addressed_of_bank0 r (hbank hw hmem)
    have hread := writeDevices_read_same hws r v hw hm hmem (by rw [hsame]; exact hr)
    rw [hsame] at hread
    rw [h, addressed_of_bank0 r hbank', hread]

end

/-- Settles O54: the second write meets the same devices, which hold the byte already. -/
theorem regWriteTwiceIsOnce : Obligations.RegWriteTwiceIsOnce := by
  intro s a r v f1 f2 n1 n2 rest hready hn1 hn2 hm hstored hA hB hbank hin
  have hr := (storedOffset_iff r).mpr hstored
  have hi := isIocon_eq_false hA hB
  obtain ⟨t, ht, ⟨-, -, htready, -, htmem, htin, htparams, -, htpresent⟩, htword, -⟩ :=
    regWriteCompletes.1 s a r v (.device f1) (.ok f1) _ n1 _ hready hn1 hin (replies_write f1 hr hi)
  have hn2' : SettlesIn t n2 := by rw [SettlesIn, htparams]; exact hn2
  obtain ⟨u, hu, ⟨-, -, -, -, humem, -⟩, huword, -⟩ :=
    regWriteCompletes.1 t a r v (.device f2) (.ok f2) _ n2 _ htready hn2' htin (replies_write f2 hr hi)
  refine ⟨t, u, ht, hu, htword, huword, ?_⟩
  have hsel := selectedDevices_of_iocon (deviceIocon_writeDevices (v := v) _ hm hi hbank) s.params s.present (a &&& 0xFE#8)
  rw [humem, htparams, htpresent, htmem, hsel]
  exact writeDevices_twice _ hm (le_of_storedOffset hr) hi hbank

/-- Settles O57: the read meets the same device, whose register holds the byte written. -/
theorem readSeesTheWriteBefore : Obligations.ReadSeesTheWriteBefore := by
  intro s a r v hw f1 f2 n1 n2 rest hready hn1 hn2 hm heven hsel hbank hstored hA hB hin
  have hr := (storedOffset_iff r).mpr hstored
  have hi := isIocon_eq_false hA hB
  have hwrite := replies_write (s := s) (m := s.mem) (a := a) (v := v) f1 hr hi
  rw [and_clearBitZero_of_even heven, hsel] at hwrite
  obtain ⟨t, ht, ⟨-, -, htready, -, htmem, htin, htparams, -, htpresent⟩, htword, -⟩ :=
    regWriteCompletes.1 s a r v (.device f1) (.ok f1) _ n1 _ hready hn1 hin hwrite
  have hn2' : SettlesIn t n2 := by rw [SettlesIn, htparams]; exact hn2
  have hicon : ∀ hw', deviceIocon t.mem hw' = deviceIocon s.mem hw' := fun hw' => by
    rw [htmem, deviceIocon_writeDevices [hw] hm hi (by simpa using hbank)]
  have hsel' : selectedDevices t.params t.present t.mem (a ||| 0x01#8) = [hw] := by
    rw [selectedDevices_or_one, htparams, htpresent, selectedDevices_of_iocon hicon, hsel]
  have hval : Memory.read t.mem (deviceAddr hw r) = v := by
    rw [htmem, writeDevices_one hbank (le_of_storedOffset hr), Memory.read_write_same _ _ _ hm]
  obtain ⟨u, hu, -, huword, -⟩ := regReadCompletes.1 t a r (.device f2) _ _ n2 _ htready hn2' htin
    (replies_read f2 hsel' (by rw [hicon]; exact hbank) hr hi)
  refine ⟨t, u, ht, hu, htword, ?_⟩
  rw [huword, hval]

/-- The registers of a half in the default map are plain ones (R121, R129). -/
theorem halfRegs_default (h : Half) :
    storedOffset (halfRegs regMapDefault h).1 = true ∧ isIocon (halfRegs regMapDefault h).1 = false ∧
      storedOffset (halfRegs regMapDefault h).2 = true ∧ isIocon (halfRegs regMapDefault h).2 = false := by
  cases h <;> decide

/-- An unconfigured device has BANK = 0, and its directions read 0xFF (R76). -/
theorem read_blank_direction (hw : Nat) (h : Half) :
    (deviceIocon [] hw).getLsbD 7 = false ∧ Memory.read [] (deviceAddr hw (halfRegs regMapDefault h).1) = 0xFF#8 := by
  have hmod : ∀ k < 256, (hw * 256 + k) % 256 = k := by omega
  refine ⟨?_, ?_⟩
  · simp [deviceIocon, Memory.read, Memory.blank, deviceAddr, hmod]
  · cases h <;> simp [Memory.read, Memory.blank, deviceAddr, halfRegs, regMapDefault, hmod]

/-- Settles O53: the direction read returns 0xFF, and the guard ends the command. -/
theorem setOutputBeforeConfigureMismatches : Obligations.SetOutputBeforeConfigureMismatches := by
  intro s a p d h bit hw f n rest hready hn hmap hmem hp hsel hin
  obtain ⟨hstored, hplain, -⟩ := halfRegs_default h
  obtain ⟨hbank, hval⟩ := read_blank_direction hw h
  have hr := replies_read (r := (halfRegs s.params.regMap h).1) f hsel (by rw [hmem]; exact hbank) (hmap ▸ hstored)
    (hmap ▸ hplain)
  rw [hmem, hmap, hval] at hr
  obtain ⟨t, ht, hrsp, -, -, -, htmem, -⟩ := setOutputStopsAtTheGuard.1 s a p d h bit (.device f) _ _ n rest hready hn hp hin
    (by rw [hmap, hmem]; exact hr) (by simp [answerByte])
  refine ⟨t, ht, ?_, htmem⟩
  have hword : Rsp.word ⟨false, true, false, .errConfigMismatch, 1#4, 0x00#8, 0xFF#8⟩ = 0x430100FF#32 := by decide
  rw [hrsp, if_neg nofun]
  exact hword

/-- Settles O58: the four frames read the half's direction, read its latch, write the new byte and read it back. -/
theorem setOutputSetsTheLatchBit : Obligations.SetOutputSetsTheLatchBit := by
  intro s a p d h bit hw f1 f2 f3 f4 n1 n2 n3 n4 rest hready hn1 hn2 hn3 hn4 hm hmap hverify heven hp hsel hbank hdir hin
  obtain ⟨hdStored, hdPlain, hlStored, hlPlain⟩ := halfRegs_default h
  have hreads : selectedDevices s.params s.present s.mem (a ||| 0x01#8) = [hw] := by rw [selectedDevices_or_one, hsel]
  have hr1 := replies_read f1 hreads hbank hdStored hdPlain
  have hr2 := replies_read f2 hreads hbank hlStored hlPlain
  generalize hlatch : Memory.read s.mem (deviceAddr hw (halfRegs regMapDefault h).2) = latch at hr2 ⊢
  have hr3 := replies_write (s := s) (m := s.mem) (a := a) (v := applyBit latch bit d) f3 hlStored hlPlain
  rw [and_clearBitZero_of_even heven, hsel] at hr3
  have hicon := deviceIocon_writeDevices (v := applyBit latch bit d) [hw] hm hlPlain (by simpa using hbank)
  have hr4 := replies_read (s := s) f4 ((selectedDevices_of_iocon hicon _ _ _).trans hreads) (by rw [hicon]; exact hbank)
    hlStored hlPlain
  rw [writeDevices_one hbank (le_of_storedOffset hlStored)] at hr3 hr4
  rw [Memory.read_write_same _ _ _ hm] at hr4
  rw [← hmap] at hr1 hr2 hr3 hr4
  obtain ⟨t, ht, hrsp, -, -, -, htmem, -⟩ := setOutputVerifies.1 s a p d h bit _ _ _ _ _ _ _ _ _ _ _ _ n1 n2 n3 n4 rest hready
    hn1 hn2 hn3 hn4 hp hverify hin hr1 (by rw [hmap]; exact hdir) hr2 hr3 hr4
  have hread : ∀ b, Memory.read t.mem b =
      if b = deviceAddr hw (halfRegs regMapDefault h).2 then applyBit latch bit d else Memory.read s.mem b := fun b => by
    rw [htmem, Memory.read_write _ _ _ _ hm, hmap]
  refine ⟨t, ht, by rw [hrsp], by rw [hrsp]; rfl, by rw [hrsp]; rfl, by rw [hrsp]; rfl, hread, ?_⟩
  rw [hread, if_pos rfl, applyBit_applyBit]

end Sys2Proof.Machine
end
